-- ==== Sys2Proof/Word.lean ====
section
/-! DEFINITION. The word types of the hardware (spec/00_scope.md R5, R7): every value is unsigned, bit 0 is
the least significant bit. -/

namespace Sys2Proof

/-- The addressable unit of memory, a general register, a timer, an 8-bit immediate `NN` (R5, R60). -/
abbrev Byte := BitVec 8

/-- An instruction word, the program counter, the index register, a return address (R5, R90, D13). -/
abbrev Word := BitVec 16

/-- A 4-bit field of an instruction word (R7). -/
abbrev Nibble := BitVec 4

/-- The 12-bit address field `NNN` (R91). -/
abbrev Addr := BitVec 12

/-- The index of a general register, "always at most 15 by construction from a 4-bit field" (R21), and of a key
(R34). -/
abbrev Reg := Fin 16

/-- `VF`, the general register that is also the flag (R22). -/
abbrev Reg.VF : Reg := 15

end Sys2Proof
end

