-- ==== Sys2Proof/Syntax.lean ====
section
/-! DEFINITION. The instructions: one constructor per row of spec/opcode_table.json (spec/30_encoding.md R96),
with one field for every operand letter of the row's encoding. A field is as wide as its bits, so every operand
value a constructor can hold is one the encoding can hold (R91, R93, R99). The bits a row decodes and ignores (R97)
are a field too (`ign`, and `y` of the two shifts): no bit of a word is lost in decoding, and no meaning reads them. -/

namespace Sys2Proof

inductive Instr where
  /-- 00E0 `CLS`: clear display (R210). -/
  | cls
  /-- 00EE `RET`: return from subroutine (R140). -/
  | ret
  /-- 1NNN `JP NNN`: jump (R141). -/
  | jpNnn (nnn : Addr)
  /-- 2NNN `CALL NNN`: call subroutine (R142). -/
  | callNnn (nnn : Addr)
  /-- 3XNN `SE VX, NN`: skip if register equals immediate (R144). -/
  | seVxNn (x : Reg) (nn : Byte)
  /-- 4XNN `SNE VX, NN`: skip if register differs from immediate (R145). -/
  | sneVxNn (x : Reg) (nn : Byte)
  /-- 5XY0 `SE VX, VY`: skip if registers equal (R146); `ign` is the ignored low nibble (R97). -/
  | seVxVy (x y : Reg) (ign : Nibble)
  /-- 6XNN `LD VX, NN`: load immediate (R160). -/
  | ldVxNn (x : Reg) (nn : Byte)
  /-- 7XNN `ADD VX, NN`: add immediate (R161). -/
  | addVxNn (x : Reg) (nn : Byte)
  /-- 8XY0 `LD VX, VY`: assign (R162). -/
  | ldVxVy (x y : Reg)
  /-- 8XY1 `OR VX, VY` (R163). -/
  | orVxVy (x y : Reg)
  /-- 8XY2 `AND VX, VY` (R164). -/
  | andVxVy (x y : Reg)
  /-- 8XY3 `XOR VX, VY` (R165). -/
  | xorVxVy (x y : Reg)
  /-- 8XY4 `ADD VX, VY`: add with carry out (R166). -/
  | addVxVy (x y : Reg)
  /-- 8XY5 `SUB VX, VY`: subtract VY from VX (R167). -/
  | subVxVy (x y : Reg)
  /-- 8XY6 `SHR VX`: shift right by one (R168); `y` is present in the word and not used. -/
  | shrVx (x y : Reg)
  /-- 8XY7 `SUBN VX, VY`: reversed subtract (R169). -/
  | subnVxVy (x y : Reg)
  /-- 8XYE `SHL VX`: shift left by one (R170); `y` is present in the word and not used. -/
  | shlVx (x y : Reg)
  /-- 9XY0 `SNE VX, VY`: skip if registers differ (R147); `ign` is the ignored low nibble (R97). -/
  | sneVxVy (x y : Reg) (ign : Nibble)
  /-- ANNN `LD I, NNN`: set index register (R190). -/
  | ldINnn (nnn : Addr)
  /-- BNNN `JP V0, NNN`: jump with offset (R143). -/
  | jpV0Nnn (nnn : Addr)
  /-- CXNN `RND VX, NN`: random (R236). -/
  | rndVxNn (x : Reg) (nn : Byte)
  /-- DXYN `DRW VX, VY, N`: draw sprite of `n` rows (R211). -/
  | drwVxVyN (x y : Reg) (n : Nibble)
  /-- EX9E `SKP VX`: skip if key pressed (R230). -/
  | skpVx (x : Reg)
  /-- EXA1 `SKNP VX`: skip if key not pressed (R231). -/
  | sknpVx (x : Reg)
  /-- FX07 `LD VX, DT`: read delay timer (R233). -/
  | ldVxDt (x : Reg)
  /-- FX0A `LD VX, K`: wait for a key (R232). -/
  | ldVxK (x : Reg)
  /-- FX15 `LD DT, VX`: set delay timer (R234). -/
  | ldDtVx (x : Reg)
  /-- FX18 `LD ST, VX`: set sound timer (R235). -/
  | ldStVx (x : Reg)
  /-- FX1E `ADD I, VX`: add register to index (R191). -/
  | addIVx (x : Reg)
  /-- FX29 `LD F, VX`: point index at a font glyph (R192). -/
  | ldFVx (x : Reg)
  /-- FX33 `LD B, VX`: store BCD (R193). -/
  | ldBVx (x : Reg)
  /-- FX55 `LD [I], VX`: bulk store of V0 to VX (R194). -/
  | ldMemVx (x : Reg)
  /-- FX65 `LD VX, [I]`: bulk load of V0 to VX (R195). -/
  | ldVxMem (x : Reg)
deriving DecidableEq, Repr

end Sys2Proof
end

