-- ==== Sys2Proof/WellFormed.lean ====
section
/-! DEFINITION. Which instructions are well-formed: those an assembler may write (spec/30_encoding.md R97, R101).
Every operand field is exactly as wide as its bits, so no range needs a check (R99: "register indices need no
check"); what is left to check is the CANONICAL form of R97, the ignored bits of the four rows that have some being
zero. The decoder and the machine take every instruction, well-formed or not: R97 says that any value of the ignored
bits executes. -/

namespace Sys2Proof

/-- The canonical form of R97: "an assembler emits N = 0" for 5XY0 and 9XY0, and "Y = 0" for 8XY6 and 8XYE. -/
def Instr.wellFormed : Instr → Bool
  | .seVxVy _ _ ign => ign == 0
  | .sneVxVy _ _ ign => ign == 0
  | .shrVx _ y => y == 0
  | .shlVx _ y => y == 0
  | .cls | .ret | .jpNnn _ | .callNnn _ | .seVxNn _ _ | .sneVxNn _ _ | .ldVxNn _ _ | .addVxNn _ _ => true
  | .ldVxVy _ _ | .orVxVy _ _ | .andVxVy _ _ | .xorVxVy _ _ | .addVxVy _ _ | .subVxVy _ _ | .subnVxVy _ _ => true
  | .ldINnn _ | .jpV0Nnn _ | .rndVxNn _ _ | .drwVxVyN _ _ _ | .skpVx _ | .sknpVx _ => true
  | .ldVxDt _ | .ldVxK _ | .ldDtVx _ | .ldStVx _ | .addIVx _ | .ldFVx _ | .ldBVx _ | .ldMemVx _ | .ldVxMem _ => true

end Sys2Proof
end

