-- ==== Sys2Proof/Decode.lean ====
section
/-! DEFINITION. The decoder and the encoder (spec/30_encoding.md R90 to R99). The decoder is the two-level dispatch of
R94 and R95 over the fields of R91; it is total, and what it does not recognise it rejects by name. The encoder writes
each instruction from the formats of R92 and the opcode map of R96. The opcode map itself, as masks and patterns, is
`opcodeMap`. -/

namespace Sys2Proof

/-- `F = op[15:12]`, the family (R91). -/
def fieldF (w : Word) : Nibble := w.extractLsb' 12 4

/-- `X = op[11:8]` (R91). -/
def fieldX (w : Word) : Reg := (w.extractLsb' 8 4).toFin

/-- `Y = op[7:4]` (R91). -/
def fieldY (w : Word) : Reg := (w.extractLsb' 4 4).toFin

/-- `N = op[3:0]` (R91). -/
def fieldN (w : Word) : Nibble := w.extractLsb' 0 4

/-- `NN = op[7:0]` (R91). -/
def fieldNN (w : Word) : Byte := w.extractLsb' 0 8

/-- `NNN = op[11:0]` (R91). -/
def fieldNNN (w : Word) : Addr := w.extractLsb' 0 12

/-- Family 0: the sub-opcode is the whole `NNN` (R95). -/
def decodeFamily0 (w : Word) : Option Instr :=
  if fieldNNN w = 0x0E0#12 then some .cls
  else if fieldNNN w = 0x0EE#12 then some .ret
  else none

/-- Family 8: the sub-opcode is `N` (R95, R173). -/
def decodeFamily8 (w : Word) : Option Instr :=
  if fieldN w = 0x0#4 then some (.ldVxVy (fieldX w) (fieldY w))
  else if fieldN w = 0x1#4 then some (.orVxVy (fieldX w) (fieldY w))
  else if fieldN w = 0x2#4 then some (.andVxVy (fieldX w) (fieldY w))
  else if fieldN w = 0x3#4 then some (.xorVxVy (fieldX w) (fieldY w))
  else if fieldN w = 0x4#4 then some (.addVxVy (fieldX w) (fieldY w))
  else if fieldN w = 0x5#4 then some (.subVxVy (fieldX w) (fieldY w))
  else if fieldN w = 0x6#4 then some (.shrVx (fieldX w) (fieldY w))
  else if fieldN w = 0x7#4 then some (.subnVxVy (fieldX w) (fieldY w))
  else if fieldN w = 0xE#4 then some (.shlVx (fieldX w) (fieldY w))
  else none

/-- Family E: the sub-opcode is `NN` (R95). -/
def decodeFamilyE (w : Word) : Option Instr :=
  if fieldNN w = 0x9E#8 then some (.skpVx (fieldX w))
  else if fieldNN w = 0xA1#8 then some (.sknpVx (fieldX w))
  else none

/-- Family F: the sub-opcode is `NN` (R95). -/
def decodeFamilyF (w : Word) : Option Instr :=
  if fieldNN w = 0x07#8 then some (.ldVxDt (fieldX w))
  else if fieldNN w = 0x0A#8 then some (.ldVxK (fieldX w))
  else if fieldNN w = 0x15#8 then some (.ldDtVx (fieldX w))
  else if fieldNN w = 0x18#8 then some (.ldStVx (fieldX w))
  else if fieldNN w = 0x1E#8 then some (.addIVx (fieldX w))
  else if fieldNN w = 0x29#8 then some (.ldFVx (fieldX w))
  else if fieldNN w = 0x33#8 then some (.ldBVx (fieldX w))
  else if fieldNN w = 0x55#8 then some (.ldMemVx (fieldX w))
  else if fieldNN w = 0x65#8 then some (.ldVxMem (fieldX w))
  else none

/-- The decoder: the instruction a word stands for, or `none` for an unknown word. First-level dispatch on the family
alone (R94); families 0, 8, E and F have a second level (R95). It reads no state and cannot fault (R123). -/
def decode (w : Word) : Option Instr :=
  if fieldF w = 0x0#4 then decodeFamily0 w
  else if fieldF w = 0x1#4 then some (.jpNnn (fieldNNN w))
  else if fieldF w = 0x2#4 then some (.callNnn (fieldNNN w))
  else if fieldF w = 0x3#4 then some (.seVxNn (fieldX w) (fieldNN w))
  else if fieldF w = 0x4#4 then some (.sneVxNn (fieldX w) (fieldNN w))
  else if fieldF w = 0x5#4 then some (.seVxVy (fieldX w) (fieldY w) (fieldN w))
  else if fieldF w = 0x6#4 then some (.ldVxNn (fieldX w) (fieldNN w))
  else if fieldF w = 0x7#4 then some (.addVxNn (fieldX w) (fieldNN w))
  else if fieldF w = 0x8#4 then decodeFamily8 w
  else if fieldF w = 0x9#4 then some (.sneVxVy (fieldX w) (fieldY w) (fieldN w))
  else if fieldF w = 0xA#4 then some (.ldINnn (fieldNNN w))
  else if fieldF w = 0xB#4 then some (.jpV0Nnn (fieldNNN w))
  else if fieldF w = 0xC#4 then some (.rndVxNn (fieldX w) (fieldNN w))
  else if fieldF w = 0xD#4 then some (.drwVxVyN (fieldX w) (fieldY w) (fieldN w))
  else if fieldF w = 0xE#4 then decodeFamilyE w
  else decodeFamilyF w

/-- Why bytes are no instruction. -/
inductive DecodeError where
  /-- Fewer than the two bytes of an instruction (R90). -/
  | truncated
  /-- The two bytes hold the unknown word `w` (R98). -/
  | unknownOpcode (w : Word)
deriving DecidableEq, Repr

/-- What decoding a byte sequence gives. -/
inductive DecodeResult where
  /-- The first instruction, and the bytes after it. -/
  | instr (i : Instr) (rest : List Byte)
  /-- No instruction stands at the front. -/
  | rejected (e : DecodeError)
deriving DecidableEq, Repr

/-- The word of two consecutive bytes, big-endian: the byte at the lower address is `op[15:8]` (R64, R90). -/
def wordOfBytes (hi lo : Byte) : Word := hi ++ lo

/-- Decoding at the front of a byte sequence: total, rejecting by name (R90, R99). -/
def decodeBytes : List Byte → DecodeResult
  | hi :: lo :: rest =>
    match decode (wordOfBytes hi lo) with
    | some i => .instr i rest
    | none => .rejected (.unknownOpcode (wordOfBytes hi lo))
  | _ => .rejected .truncated

/-- A register index as the 4 bits of its field. -/
def Reg.nibble (r : Reg) : Nibble := BitVec.ofFin r

/-- The format `NNN` of R92: family and a 12-bit address. -/
def wordNNN (f : Nibble) (nnn : Addr) : Word := f ++ nnn

/-- The formats `XNN` and `XSUB` of R92: family, a register, and a byte (an immediate or a sub-opcode). -/
def wordXNN (f : Nibble) (x : Reg) (nn : Byte) : Word := f ++ x.nibble ++ nn

/-- The formats `XY` and `XYN` of R92: family, two registers, and a nibble (an immediate, a sub-opcode, or ignored). -/
def wordXYN (f : Nibble) (x y : Reg) (n : Nibble) : Word := f ++ x.nibble ++ y.nibble ++ n

/-- The encoder: the word of each instruction, from the rows of R96. -/
def encode : Instr → Word
  | .cls => 0x00E0#16
  | .ret => 0x00EE#16
  | .jpNnn nnn => wordNNN 0x1#4 nnn
  | .callNnn nnn => wordNNN 0x2#4 nnn
  | .seVxNn x nn => wordXNN 0x3#4 x nn
  | .sneVxNn x nn => wordXNN 0x4#4 x nn
  | .seVxVy x y ign => wordXYN 0x5#4 x y ign
  | .ldVxNn x nn => wordXNN 0x6#4 x nn
  | .addVxNn x nn => wordXNN 0x7#4 x nn
  | .ldVxVy x y => wordXYN 0x8#4 x y 0x0#4
  | .orVxVy x y => wordXYN 0x8#4 x y 0x1#4
  | .andVxVy x y => wordXYN 0x8#4 x y 0x2#4
  | .xorVxVy x y => wordXYN 0x8#4 x y 0x3#4
  | .addVxVy x y => wordXYN 0x8#4 x y 0x4#4
  | .subVxVy x y => wordXYN 0x8#4 x y 0x5#4
  | .shrVx x y => wordXYN 0x8#4 x y 0x6#4
  | .subnVxVy x y => wordXYN 0x8#4 x y 0x7#4
  | .shlVx x y => wordXYN 0x8#4 x y 0xE#4
  | .sneVxVy x y ign => wordXYN 0x9#4 x y ign
  | .ldINnn nnn => wordNNN 0xA#4 nnn
  | .jpV0Nnn nnn => wordNNN 0xB#4 nnn
  | .rndVxNn x nn => wordXNN 0xC#4 x nn
  | .drwVxVyN x y n => wordXYN 0xD#4 x y n
  | .skpVx x => wordXNN 0xE#4 x 0x9E#8
  | .sknpVx x => wordXNN 0xE#4 x 0xA1#8
  | .ldVxDt x => wordXNN 0xF#4 x 0x07#8
  | .ldVxK x => wordXNN 0xF#4 x 0x0A#8
  | .ldDtVx x => wordXNN 0xF#4 x 0x15#8
  | .ldStVx x => wordXNN 0xF#4 x 0x18#8
  | .addIVx x => wordXNN 0xF#4 x 0x1E#8
  | .ldFVx x => wordXNN 0xF#4 x 0x29#8
  | .ldBVx x => wordXNN 0xF#4 x 0x33#8
  | .ldMemVx x => wordXNN 0xF#4 x 0x55#8
  | .ldVxMem x => wordXNN 0xF#4 x 0x65#8

/-- The high byte of a word, the one at the lower address (R64). -/
def hiByte (w : Word) : Byte := w.extractLsb' 8 8

/-- The low byte of a word (R64). -/
def loByte (w : Word) : Byte := w.extractLsb' 0 8

/-- An instruction as it stands in memory, high byte first (R64, R103). -/
def encodeBytes (i : Instr) : List Byte := [hiByte (encode i), loByte (encode i)]

/-- One row of the opcode map: a word `w` is the instruction iff `w &&& mask = pattern` (R96). -/
structure OpcodeRow where
  mnemonic : String
  mask : Word
  pattern : Word
deriving DecidableEq, Repr

/-- The row of R96 an instruction belongs to: its mnemonic in spec/opcode_table.json, its mask and its match. -/
def Instr.row : Instr → OpcodeRow
  | .cls => ⟨"CLS", 0xFFFF#16, 0x00E0#16⟩
  | .ret => ⟨"RET", 0xFFFF#16, 0x00EE#16⟩
  | .jpNnn _ => ⟨"JP_NNN", 0xF000#16, 0x1000#16⟩
  | .callNnn _ => ⟨"CALL_NNN", 0xF000#16, 0x2000#16⟩
  | .seVxNn _ _ => ⟨"SE_VX__NN", 0xF000#16, 0x3000#16⟩
  | .sneVxNn _ _ => ⟨"SNE_VX__NN", 0xF000#16, 0x4000#16⟩
  | .seVxVy _ _ _ => ⟨"SE_VX__VY", 0xF000#16, 0x5000#16⟩
  | .ldVxNn _ _ => ⟨"LD_VX__NN", 0xF000#16, 0x6000#16⟩
  | .addVxNn _ _ => ⟨"ADD_VX__NN", 0xF000#16, 0x7000#16⟩
  | .ldVxVy _ _ => ⟨"LD_VX__VY", 0xF00F#16, 0x8000#16⟩
  | .orVxVy _ _ => ⟨"OR_VX__VY", 0xF00F#16, 0x8001#16⟩
  | .andVxVy _ _ => ⟨"AND_VX__VY", 0xF00F#16, 0x8002#16⟩
  | .xorVxVy _ _ => ⟨"XOR_VX__VY", 0xF00F#16, 0x8003#16⟩
  | .addVxVy _ _ => ⟨"ADD_VX__VY", 0xF00F#16, 0x8004#16⟩
  | .subVxVy _ _ => ⟨"SUB_VX__VY", 0xF00F#16, 0x8005#16⟩
  | .shrVx _ _ => ⟨"SHR_VX", 0xF00F#16, 0x8006#16⟩
  | .subnVxVy _ _ => ⟨"SUBN_VX__VY", 0xF00F#16, 0x8007#16⟩
  | .shlVx _ _ => ⟨"SHL_VX", 0xF00F#16, 0x800E#16⟩
  | .sneVxVy _ _ _ => ⟨"SNE_VX__VY", 0xF000#16, 0x9000#16⟩
  | .ldINnn _ => ⟨"LD_I__NNN", 0xF000#16, 0xA000#16⟩
  | .jpV0Nnn _ => ⟨"JP_V0__NNN", 0xF000#16, 0xB000#16⟩
  | .rndVxNn _ _ => ⟨"RND_VX__NN", 0xF000#16, 0xC000#16⟩
  | .drwVxVyN _ _ _ => ⟨"DRW_VX__VY__N", 0xF000#16, 0xD000#16⟩
  | .skpVx _ => ⟨"SKP_VX", 0xF0FF#16, 0xE09E#16⟩
  | .sknpVx _ => ⟨"SKNP_VX", 0xF0FF#16, 0xE0A1#16⟩
  | .ldVxDt _ => ⟨"LD_VX__DT", 0xF0FF#16, 0xF007#16⟩
  | .ldVxK _ => ⟨"LD_VX__K", 0xF0FF#16, 0xF00A#16⟩
  | .ldDtVx _ => ⟨"LD_DT__VX", 0xF0FF#16, 0xF015#16⟩
  | .ldStVx _ => ⟨"LD_ST__VX", 0xF0FF#16, 0xF018#16⟩
  | .addIVx _ => ⟨"ADD_I__VX", 0xF0FF#16, 0xF01E#16⟩
  | .ldFVx _ => ⟨"LD_F__VX", 0xF0FF#16, 0xF029#16⟩
  | .ldBVx _ => ⟨"LD_B__VX", 0xF0FF#16, 0xF033#16⟩
  | .ldMemVx _ => ⟨"LD__I___VX", 0xF0FF#16, 0xF055#16⟩
  | .ldVxMem _ => ⟨"LD_VX___I", 0xF0FF#16, 0xF065#16⟩

/-- The 34 rows of R96, in the table's order. -/
def opcodeMap : List OpcodeRow :=
  [Instr.cls.row, Instr.ret.row, (Instr.jpNnn 0).row, (Instr.callNnn 0).row, (Instr.seVxNn 0 0).row,
    (Instr.sneVxNn 0 0).row, (Instr.seVxVy 0 0 0).row, (Instr.ldVxNn 0 0).row, (Instr.addVxNn 0 0).row] ++
  [(Instr.ldVxVy 0 0).row, (Instr.orVxVy 0 0).row, (Instr.andVxVy 0 0).row, (Instr.xorVxVy 0 0).row,
    (Instr.addVxVy 0 0).row, (Instr.subVxVy 0 0).row, (Instr.shrVx 0 0).row, (Instr.subnVxVy 0 0).row,
    (Instr.shlVx 0 0).row] ++
  [(Instr.sneVxVy 0 0 0).row, (Instr.ldINnn 0).row, (Instr.jpV0Nnn 0).row, (Instr.rndVxNn 0 0).row,
    (Instr.drwVxVyN 0 0 0).row, (Instr.skpVx 0).row, (Instr.sknpVx 0).row] ++
  [(Instr.ldVxDt 0).row, (Instr.ldVxK 0).row, (Instr.ldDtVx 0).row, (Instr.ldStVx 0).row, (Instr.addIVx 0).row,
    (Instr.ldFVx 0).row, (Instr.ldBVx 0).row, (Instr.ldMemVx 0).row, (Instr.ldVxMem 0).row]

/-- The word of a numeral numbered as spec/opcode_table.json numbers its rows: every row has 16 bits, one word; the
bits above `nbits` are zero. -/
def tableWord (nbits w : Nat) : Word := BitVec.ofNat 16 (w % 2 ^ nbits)

/-- The instruction the decoder reads from a word of the opcode table laid out in bytes as the hardware stores it. -/
def decodeTableWord (nbits w : Nat) : Option Instr :=
  match decodeBytes [hiByte (tableWord nbits w), loByte (tableWord nbits w)] with
  | .instr i _ => some i
  | .rejected _ => none

end Sys2Proof
end

