-- ==== Sys2Proof/Config.lean ====
section
/-! DEFINITION. What is fixed for the machine: the sizes of spec/00_scope.md R5, and the one free value, the
random input of CXNN (R6, R37). The font table is spec/20_memory.md R66 and stands in Machine/Font.lean. -/

namespace Sys2Proof.Config

/-- `MEM_SIZE`, the number of bytes of main memory: addresses 0x000 to 0xFFF (R5, R61). -/
@[simp] abbrev memSize : Nat := 4096

/-- `PROG_BASE`, where the program starts and where `PC` stands after reset (R5, R291). -/
@[simp] abbrev progBase : Nat := 0x200

/-- `PROG_MAX`, the longest program image: 4096 - 0x200 bytes (R5, R292). -/
@[simp] abbrev progMax : Nat := 0xE00

/-- `FONT_BASE`, the address of glyph 0 (R5, R65). -/
@[simp] abbrev fontBase : Nat := 0x050

/-- `FONT_LEN`, 16 glyphs of 5 bytes (R5). -/
@[simp] abbrev fontLen : Nat := 80

/-- The random bytes of CXNN, in the order they are drawn: the input `rnd` of R37, "one free 8-bit input drawn once
per executed CXNN and under no law". FREE VALUE: it has no body, so nothing can be proved about any of its bytes
(assumption log 1). `State.draws` counts how many have been consumed. -/
opaque rnd : Nat → Byte

end Sys2Proof.Config
end

