-- ==== Sys2Proof/Machine/Font.lean ====
section
/-! DEFINITION. The font table `FONT` of spec/20_memory.md R66, part of the reset content of memory (R65). The document
does not print its bytes: `FONT` is an OPEN PARAMETER of 80 bytes (spec/10_state.md R42, spec/92_eei_decisions.md D16), so
memory carries it (`Memory.font`) and reset takes it as an argument (`State.resetWith`). The spec's default for it is
`defaultFont` (PRESUMED, assumption log 2). No meaning of an instruction reads it but through memory. -/

namespace Sys2Proof.Machine

/-- The type of the parameter `FONT`: 16 glyphs of 5 bytes, digit 0 to digit F (R6, R66). -/
abbrev Font := Vector Byte Config.fontLen

/-- The bytes of the default the spec gives (R66, G3): the customary hexadecimal font. -/
def fontTable : List Byte :=
  [0xF0#8, 0x90#8, 0x90#8, 0x90#8, 0xF0#8] ++ [0x20#8, 0x60#8, 0x20#8, 0x20#8, 0x70#8] ++
  [0xF0#8, 0x10#8, 0xF0#8, 0x80#8, 0xF0#8] ++ [0xF0#8, 0x10#8, 0xF0#8, 0x10#8, 0xF0#8] ++
  [0x90#8, 0x90#8, 0xF0#8, 0x10#8, 0x10#8] ++ [0xF0#8, 0x80#8, 0xF0#8, 0x10#8, 0xF0#8] ++
  [0xF0#8, 0x80#8, 0xF0#8, 0x90#8, 0xF0#8] ++ [0xF0#8, 0x10#8, 0x20#8, 0x40#8, 0x40#8] ++
  [0xF0#8, 0x90#8, 0xF0#8, 0x90#8, 0xF0#8] ++ [0xF0#8, 0x90#8, 0xF0#8, 0x10#8, 0xF0#8] ++
  [0xF0#8, 0x90#8, 0xF0#8, 0x90#8, 0x90#8] ++ [0xE0#8, 0x90#8, 0xE0#8, 0x90#8, 0xE0#8] ++
  [0xF0#8, 0x80#8, 0x80#8, 0x80#8, 0xF0#8] ++ [0xE0#8, 0x90#8, 0x90#8, 0x90#8, 0xE0#8] ++
  [0xF0#8, 0x80#8, 0xF0#8, 0x80#8, 0xF0#8] ++ [0xF0#8, 0x80#8, 0xF0#8, 0x80#8, 0x80#8]

/-- The default value of `FONT` (R6, R66). -/
def defaultFont : Font := ⟨fontTable.toArray, rfl⟩

/-- `FONT[k]`. -/
def fontByte (font : Font) (k : Nat) : Byte := font.getD k 0x00#8

end Sys2Proof.Machine
end

