-- ==== Sys2Proof/Machine/State.lean ====
section
/-! DEFINITION. The state of one engine (spec/10_state.md R20), what a step can report (R36, spec/60_exceptions.md
R251), the reasons a meaning could stop, and the machine right after reset (R41, spec/70_reset_and_hazards.md R290). -/

namespace Sys2Proof.Machine

/-- The conditions of R251, by the names of the document: what a `step()` or a `loadProgram` returns to the host. -/
inductive Status where
  /-- No condition. -/
  | ok
  /-- A `step()` met a word that matches no instruction; non-fatal (R254). -/
  | unknownOpcode
  /-- Fatal (R252). -/
  | addressOutOfRange
  /-- Fatal (R253). -/
  | stackOverflow
  /-- Fatal (R255). -/
  | stackUnderflow
  /-- A load of more than 0xE00 bytes; it does not halt the engine (R258). -/
  | programTooLarge
  /-- Raised by the external loader, never by the core; listed so that the code space is complete (R259). -/
  | sourceUnavailable
deriving DecidableEq, Repr

/-- The contents of `CAUSE` (R35, R251): 0 when the engine is not halted, else one of the three fatal causes. -/
inductive Cause where
  /-- Code 0: `HALT = 0`. -/
  | none
  /-- Code 2. -/
  | addressOutOfRange
  /-- Code 3. -/
  | stackOverflow
  /-- Code 4. -/
  | stackUnderflow
deriving DecidableEq, Repr

/-- Main memory `MEM` (R61): the bytes that differ from what reset leaves, as (address, byte) pairs. Reading and
writing it, and its canonical form `Memory.wf`, are in Machine/Ops.lean. What reset leaves depends on the engine's
parameter `FONT` (R42, R66), which the memory carries: no read, write, step or move of the host changes it. -/
structure Memory where
  /-- THE MODEL'S OWN: the parameter `FONT` of this engine (R42, D16, log 2), the reset content of 0x050 to 0x09F. -/
  font : Font
  cells : List Host.Cell
deriving DecidableEq, Repr

/-- The framebuffer `FB` (R32): 32 rows, top first, of 64 one-bit pixels; bit `x` of row `y` is `FB[x, y]`. -/
abbrev Framebuffer := Vector (BitVec 64) 32

/-- The state of R20, the keypad input of R34 (which the host alone writes), and the model's own counter of the random
bytes consumed (R37). -/
structure State where
  /-- `MEM[0x000..0xFFF]` (R61). -/
  mem : Memory
  /-- `V[0..15]`; `V[15]` is `VF` (R21, R22). -/
  v : Vector Byte 16
  /-- The index register `I` (R26). -/
  i : Word
  /-- The program counter (R23). -/
  pc : Word
  /-- `STACK[0..15]`, return addresses (R28). -/
  stack : Vector Word 16
  /-- The stack pointer, 0 to 16 (R29). -/
  sp : Fin 17
  /-- The delay timer `DT` (R30). -/
  dt : Byte
  /-- The sound timer `ST` (R31). -/
  st : Byte
  /-- `FB` (R32). -/
  fb : Framebuffer
  /-- `DIRTY` (R33). -/
  dirty : Bool
  /-- `KEYS[0..15]`; bit `k` set means key `k` is pressed (R34). -/
  keys : BitVec 16
  /-- `HALT` (R35). -/
  halt : Bool
  /-- `CAUSE` (R35). -/
  cause : Cause
  /-- THE MODEL'S OWN: how many bytes of the random input `Config.rnd` have been consumed (R37, log 1). -/
  draws : Nat
deriving DecidableEq, Repr

/-- Why a step of the machine would stop with a fault of the host's interface: NOTHING DOES. Every condition of the
spec either goes on (`UnknownOpcode`, R254) or is taken as a next state in which `HALT` and `CAUSE` are written
(R256), and "`step()` always returns immediately" (R128). The type has no constructor, so that no meaning can end in
a fault; this is safe. -/
inductive Fault where
deriving DecidableEq, Repr

/-- Why something has no meaning in the model. -/
inductive Refusal where
  /-- An arm of `exec` whose instruction has no meaning yet (safe). No arm of this model answers it. -/
  | notModelled (mnemonic : String)
  /-- Raised by the host move `loadProgram` (Machine/HostMoves.lean), never by a step: a second load, or a load after a
  step, "is not a move of the model" (R293). Safe: nothing is claimed of such a run. -/
  | loadNotAdmitted
deriving DecidableEq, Repr

/-- The machine right after reset (R41, R290) of an engine whose font table is `font`. `MEM` lists nothing: what an
unlisted address reads as is its reset content (R65). -/
def State.resetWith (font : Font) : State where
  mem := ⟨font, []⟩
  v := Vector.replicate 16 0x00#8
  i := 0x0000#16
  pc := 0x0200#16
  stack := Vector.replicate 16 0x0000#16
  sp := 0
  dt := 0x00#8
  st := 0x00#8
  fb := Vector.replicate 32 0#64
  dirty := false
  keys := 0x0000#16
  halt := false
  cause := .none
  draws := 0

/-- The machine right after reset with the spec's default for the open parameter `FONT` (R66, log 2). -/
def State.reset : State := State.resetWith defaultFont

end Sys2Proof.Machine
end

