-- ==== Sys2Proof/Machine/Ops.lean ====
section
/-! DEFINITION. The named operations over memory, the registers, the stack, the framebuffer, the keypad and the timers
that the meanings are written from; taking a fatal fault; the fetch and the tick of the step cycle. -/

namespace Sys2Proof.Machine

/-! ### Conditions -/

/-- The numeric code of a condition (R251, D7). -/
def Status.code : Status → BitVec 3
  | .ok => 0
  | .unknownOpcode => 1
  | .addressOutOfRange => 2
  | .stackOverflow => 3
  | .stackUnderflow => 4
  | .programTooLarge => 5
  | .sourceUnavailable => 6

/-- The condition a step of an engine with this `CAUSE` returns (R121, R256). -/
def Cause.status : Cause → Status
  | .none => .ok
  | .addressOutOfRange => .addressOutOfRange
  | .stackOverflow => .stackOverflow
  | .stackUnderflow => .stackUnderflow

/-- `CAUSE` as its 3 bits (R35, R251). -/
def Cause.code (c : Cause) : BitVec 3 := c.status.code

/-! ### Main memory -/

/-- What an address that memory does not list reads as: the reset content of R65, the engine's `FONT` at 0x050 to 0x09F and zero
everywhere else. -/
def blankByte (font : Font) (a : Nat) : Byte :=
  if Config.fontBase ≤ a ∧ a < Config.fontBase + Config.fontLen then fontByte font (a - Config.fontBase) else 0x00#8

/-- The byte listed at an address, if any. -/
def lookupCell : List Host.Cell → Nat → Option Byte
  | [], _ => none
  | (a', b) :: rest, a => if a' = a then some b else lookupCell rest a

/-- A list of cells with the byte at `a` replaced, or added in its place in the order of addresses. -/
def insertCell : List Host.Cell → Nat → Byte → List Host.Cell
  | [], a, b => [(a, b)]
  | (a', b') :: rest, a, b =>
    if a < a' then (a, b) :: (a', b') :: rest
    else if a' = a then (a, b) :: rest
    else (a', b') :: insertCell rest a b

/-- A list of cells without the address `a`. -/
def eraseCell : List Host.Cell → Nat → List Host.Cell
  | [], _ => []
  | (a', b') :: rest, a => if a' = a then eraseCell rest a else (a', b') :: eraseCell rest a

/-- The canonical form of memory: addresses strictly rising and inside 0x000 to 0xFFF (R61), and no entry equal to what
an unlisted address reads as, so that equal memories are equal data. -/
abbrev Memory.wf (m : Memory) : Prop :=
  m.cells.Pairwise (fun p q => p.1 < q.1) ∧ ∀ c ∈ m.cells, c.1 < Config.memSize ∧ c.2 ≠ blankByte m.font c.1

/-- `MemRead(a, 1)` (R8, R69). It is used only after the range check of R62. -/
def Memory.read (m : Memory) (a : Nat) : Byte := (lookupCell m.cells a).getD (blankByte m.font a)

/-- `MemWrite(a, 1, b)` (R8). Every byte of memory is writable (R61, R70); it is "defined only for 0 ≤ a ≤ 0xFFF", and
every caller has made the range check of R62 before; outside that range nothing is stored. -/
def Memory.write (m : Memory) (a : Nat) (b : Byte) : Memory :=
  if a < Config.memSize then
    if b = blankByte m.font a then ⟨m.font, eraseCell m.cells a⟩ else ⟨m.font, insertCell m.cells a b⟩
  else m

/-- Consecutive bytes written from the address `a` up (R63, R292). -/
def Memory.writeBytes (m : Memory) (a : Nat) : List Byte → Memory
  | [] => m
  | b :: rest => (m.write a b).writeBytes (a + 1) rest

/-- The bounds rule of R62: the highest effective address of an access, an exact integer, lies in memory. -/
def inMemory (last : Nat) : Bool := last < Config.memSize

/-! ### Registers and the program counter -/

/-- `V[k]` (R21). -/
def State.reg (s : State) (k : Reg) : Byte := s.v[k]

/-- `V[k] <- b` (R21). No register is hard-wired. -/
def State.setReg (s : State) (k : Reg) (b : Byte) : State := { s with v := s.v.set k b }

/-- `I <- a` (R26). -/
def State.setIndex (s : State) (a : Word) : State := { s with i := a }

/-- `PC <- a` (R124): a target is not checked when it is written (R25). -/
def State.setPc (s : State) (a : Word) : State := { s with pc := a }

/-- `PC <- PC + 2`, on to the next instruction (R25). -/
def State.advance (s : State) : State := s.setPc (s.pc + 2)

/-- The skip of 3XNN, 4XNN, 5XY0, 9XY0, EX9E and EXA1: `PC + 4` if the condition holds, else `PC + 2` (R25). -/
def State.skipIf (s : State) (c : Bool) : State := if c then s.setPc (s.pc + 4) else s.advance

/-- `DT <- b` (R30). -/
def State.setDt (s : State) (b : Byte) : State := { s with dt := b }

/-- `ST <- b` (R31). -/
def State.setSt (s : State) (b : Byte) : State := { s with st := b }

/-- Memory replaced. -/
def State.setMem (s : State) (m : Memory) : State := { s with mem := m }

/-- One byte of the random input consumed (R37, R236). -/
def State.nextDraw (s : State) : State := { s with draws := s.draws + 1 }

/-! ### The call stack (R28, R29, R77) -/

/-- The push of 2NNN: `STACK[SP] <- a`, then `SP <- SP + 1`; nothing when the stack is full (R142). -/
def State.push (s : State) (a : Word) : Option State :=
  if h : s.sp.val < 16 then
    some { s with stack := s.stack.set s.sp.val a, sp := ⟨s.sp.val + 1, by omega⟩ }
  else none

/-- The pop of 00EE: `SP <- SP - 1`, and the entry it then indexes; nothing when the stack is empty (R140). The entry
is not cleared (R28). -/
def State.pop (s : State) : Option (Word × State) :=
  if h : 0 < s.sp.val then
    some (s.stack[s.sp.val - 1], { s with sp := ⟨s.sp.val - 1, by omega⟩ })
  else none

/-! ### Fatal faults

TAKING A FATAL FAULT is the one operation `State.raise`. There is no return from one: no handler, no saved register, no
vector (R250, R256); only reset clears `HALT` (R257, R262). -/

/-- `raise Cause`: `HALT <- 1`, `CAUSE <-` the cause, and nothing else changes (R256): `PC` still addresses the
faulting instruction. -/
def State.raise (s : State) (c : Cause) : State := { s with halt := true, cause := c }

/-! ### The framebuffer (R32) -/

/-- `FB[x, y]`. -/
def pixel (fb : Framebuffer) (x : Fin 64) (y : Fin 32) : Bool := fb[y].getLsbD x

/-- `FB[x, y] <- FB[x, y] ^ 1`. -/
def togglePixel (fb : Framebuffer) (x : Fin 64) (y : Fin 32) : Framebuffer := fb.set y (fb[y] ^^^ (1#64 <<< x.val))

/-- Every pixel off. -/
def clearFramebuffer : Framebuffer := Vector.replicate 32 0#64

/-- The column a sprite column lands on: `(vx + col) mod 64`, always wrapped and never clipped (R211). -/
def screenColumn (vx : Byte) (col : Nat) : Fin 64 := Fin.ofNat 64 (vx.toNat + col)

/-- The row a sprite row lands on: `(vy + row) mod 32` (R211). -/
def screenRow (vy : Byte) (row : Nat) : Fin 32 := Fin.ofNat 32 (vy.toNat + row)

/-- Bit `col` of a sprite byte counted from the left: "most-significant bit = leftmost column" (R211). -/
def spriteBit (b : Byte) (col : Nat) : Bool := b.getLsbD (7 - col)

/-- A framebuffer under a draw, and whether a collision has been seen in this draw (R212). -/
structure Canvas where
  fb : Framebuffer
  hit : Bool
deriving DecidableEq, Repr

/-- One pixel of the sprite loop of R211: a sprite bit that is 1 tests its pixel and toggles it, one that is 0 does
nothing. -/
def drawBit (c : Canvas) (bit : Bool) (x : Fin 64) (y : Fin 32) : Canvas :=
  if bit then ⟨togglePixel c.fb x y, c.hit || pixel c.fb x y⟩ else c

/-- The columns 0 to `n - 1` of one sprite row (the inner loop of R211). -/
def drawColumns (b : Byte) (vx : Byte) (y : Fin 32) : Nat → Canvas → Canvas
  | 0, c => c
  | n + 1, c => drawBit (drawColumns b vx y n c) (spriteBit b n) (screenColumn vx n) y

/-- The rows 0 to `n - 1` of a sprite, whose bytes stand from the address `base` up (the outer loop of R211). -/
def drawRows (m : Memory) (base : Nat) (vx vy : Byte) : Nat → Canvas → Canvas
  | 0, c => c
  | n + 1, c => drawColumns (m.read (base + n)) vx (screenRow vy n) 8 (drawRows m base vx vy n c)

/-- `FB` replaced. -/
def State.setFb (s : State) (fb : Framebuffer) : State := { s with fb := fb }

/-- `DIRTY <- 1` (R214). -/
def State.markDirty (s : State) : State := { s with dirty := true }

/-! ### The keypad (R34) -/

/-- `KEYS[k]`. -/
def State.keyPressed (s : State) (k : Reg) : Bool := s.keys.getLsbD k

/-- The order in which FX0A scans the keys: ascending (R232, D9). -/
def scanOrder : List Reg := [0, 1, 2, 3, 4, 5, 6, 7, 8, 9, 10, 11, 12, 13, 14, 15]

/-- The first pressed key in scan order (R232). -/
def State.firstKey (s : State) : Option Reg := scanOrder.find? s.keyPressed

/-! ### Pieces of the step cycle (spec/40_cycle.md) -/

/-- The fetch of R122: the word at `PC`, big-endian, or nothing when `PC + 1 ≥ 4096`. `PC` may be odd (R67) and is never
masked (R24). -/
def fetchWord (s : State) : Option Word :=
  if inMemory (s.pc.toNat + 1) then
    some (wordOfBytes (s.mem.read s.pc.toNat) (s.mem.read (s.pc.toNat + 1)))
  else none

/-- One timer's tick: down by one, and never below zero (R127). -/
def countDown (b : Byte) : Byte := if b = 0 then 0 else b - 1

/-- The tick at the end of every step that does not fault (R127). -/
def State.tick (s : State) : State := { s with dt := countDown s.dt, st := countDown s.st }

/-- The execute phase of an unknown word: `PC <- PC + 2` and nothing else (R129). -/
def State.skipUnknown (s : State) : State := s.advance

end Sys2Proof.Machine
end

