-- ==== Sys2Proof/Machine/Flags.lean ====
section
/-! DEFINITION. Every flag computation (spec/10_state.md R22, spec/42_load_alu.md R171), and the write of a flag to
`VF`. The collision flag of DXYN is computed by `drawRows`. -/

namespace Sys2Proof.Machine

/-- The carry of 8XY4: the exact sum exceeds 255 (R166). -/
def carryOut (a b : Byte) : Bool := 255 < a.toNat + b.toNat

/-- NOT borrow of `a - b`, for 8XY5 and 8XY7: 1 when `a ≥ b`, equal operands included (R167, R169). -/
def noBorrow (a b : Byte) : Bool := b.toNat ≤ a.toNat

/-- The bit a right shift expels (R168). -/
def lowBit (a : Byte) : Bool := a.getLsbD 0

/-- The bit a left shift expels (R170). -/
def highBit (a : Byte) : Bool := a.getLsbD 7

/-- The exact sum of FX1E (R191). -/
def indexSum (i : Word) (vx : Byte) : Nat := i.toNat + vx.toNat

/-- The flag of FX1E: the exact sum exceeds 0x0FFF (R191). -/
def indexOverflow (i : Word) (vx : Byte) : Bool := 0x0FFF < indexSum i vx

/-- A flag as the byte that `VF` receives, always exactly 0x00 or 0x01 (R22). -/
def flagByte (c : Bool) : Byte := if c then 0x01#8 else 0x00#8

/-- `VF <- flag` (R22): "flag writes to VF always overwrite any prior value". -/
def State.setFlag (s : State) (c : Bool) : State := s.setReg Reg.VF (flagByte c)

end Sys2Proof.Machine
end

