-- ==== Sys2Proof/Machine/Operands.lean ====
section
/-! DEFINITION. The operand forms of the instructions (spec/30_encoding.md R93, spec/43_index_memory.md R196): an address
immediate, the one data addressing mode `I + k`, the register block `V0 … VX`, a keypad index, a decimal digit. A
register operand is `State.reg`, an 8-bit immediate is itself. -/

namespace Sys2Proof.Machine

/-- `zext_16(NNN)` (R93). -/
def addrOperand (nnn : Addr) : Word := nnn.setWidth 16

/-- `zext_16(NNN) + zext_16(V0)`, the target of BNNN: a 16-bit sum that is not masked to 12 bits (R143). -/
def offsetTarget (nnn : Addr) (v0 : Byte) : Word := BitVec.ofNat 16 (nnn.toNat + v0.toNat)

/-- The effective address `I + k`: an exact integer, never wrapped or masked (R62, R196). -/
def effectiveAddress (s : State) (k : Nat) : Nat := s.i.toNat + k

/-- The bytes `V0 … V(n-1)`, lowest register first, as FX55 stores them (R194). -/
def registerBytes (v : Vector Byte 16) : Nat → List Byte
  | 0 => []
  | n + 1 => registerBytes v n ++ [v.getD n 0x00#8]

/-- The registers with `V0 … V(n-1)` loaded from the address `base` up (R195). -/
def loadRegisters (m : Memory) (base : Nat) : Nat → Vector Byte 16 → Vector Byte 16
  | 0, v => v
  | n + 1, v => (loadRegisters m base n v).setIfInBounds n (m.read (base + n))

/-- The number of registers in the block `V0 … VX`: the bound is inclusive (R93, R194). -/
def blockSize (x : Reg) : Nat := x.val + 1

/-- The registers replaced as a block. -/
def State.setRegs (s : State) (v : Vector Byte 16) : State := { s with v := v }

/-- The keypad index of EX9E and EXA1, if it is one of the 16 keys (R237, D8). -/
def keyIndex (vx : Byte) : Option Reg := if h : vx.toNat < 16 then some ⟨vx.toNat, h⟩ else none

/-- The address of the glyph of the low digit of `vx`: `0x050 + 5 × vx[3:0]` (R192). -/
def glyphAddress (vx : Byte) : Word := BitVec.ofNat 16 (Config.fontBase + 5 * (vx.toNat % 16))

/-- The three decimal digits of `vx`, hundreds first, each in a byte of its own (R193). -/
def decimalDigits (vx : Byte) : List Byte :=
  [BitVec.ofNat 8 (vx.toNat / 100), BitVec.ofNat 8 (vx.toNat / 10 % 10), BitVec.ofNat 8 (vx.toNat % 10)]

end Sys2Proof.Machine
end

