-- ==== Sys2Proof/Machine/Display.lean ====
section
/-! DEFINITION. The display instructions and the collision detector (spec/44_display.md): 00E0, DXYN. -/

namespace Sys2Proof.Machine

/-- 00E0 `CLS` (R210): every pixel off; `VF` and `DIRTY` are unchanged (D10). -/
def execCls (s : State) : Host.Outcome State Fault Refusal := .next (s.setFb clearFramebuffer).advance

/-- The sprite of DXYN drawn on the framebuffer, with the collision detector cleared before the first row (R211,
R212). -/
def drawSprite (s : State) (x y : Reg) (n : Nibble) : Canvas :=
  drawRows s.mem (effectiveAddress s 0) (s.reg x) (s.reg y) n.toNat ⟨s.fb, false⟩

/-- The range check of DXYN: with no row no address is checked (R62, R211, D23). -/
def spriteInMemory (s : State) (n : Nibble) : Bool := n.toNat == 0 || inMemory (effectiveAddress s (n.toNat - 1))

/-- DXYN `DRW VX, VY, N` (R211): the coordinates are the registers as they were before `VF` is written (R125, D1);
`VF` receives the collision and `DIRTY` is set, whether or not a pixel changed (R214). -/
def execDrwVxVyN (x y : Reg) (n : Nibble) (s : State) : Host.Outcome State Fault Refusal :=
  if spriteInMemory s n then
    .next (((s.setFb (drawSprite s x y n).fb).setFlag (drawSprite s x y n).hit).markDirty).advance
  else .next (s.raise .addressOutOfRange)

end Sys2Proof.Machine
end

