-- ==== Sys2Proof/Machine/IndexMemory.lean ====
section
/-! DEFINITION. The index register and the memory instructions (spec/43_index_memory.md): ANNN, FX1E, FX29, FX33, FX55,
FX65. The highest effective address is checked before anything is read or written (R62, R197). -/

namespace Sys2Proof.Machine

/-- ANNN `LD I, NNN` (R190). -/
def execLdINnn (nnn : Addr) (s : State) : Host.Outcome State Fault Refusal :=
  .next (s.setIndex (addrOperand nnn)).advance

/-- FX1E `ADD I, VX` (R191): the exact sum masked to 12 bits, and its overflow in `VF`. -/
def execAddIVx (x : Reg) (s : State) : Host.Outcome State Fault Refusal :=
  .next ((s.setIndex (BitVec.ofNat 16 (indexSum s.i (s.reg x) % 4096))).setFlag
    (indexOverflow s.i (s.reg x))).advance

/-- FX29 `LD F, VX` (R192): an address only; memory is not read. -/
def execLdFVx (x : Reg) (s : State) : Host.Outcome State Fault Refusal :=
  .next (s.setIndex (glyphAddress (s.reg x))).advance

/-- FX33 `LD B, VX` (R193): the three decimal digits at `I`, `I + 1`, `I + 2`. -/
def execLdBVx (x : Reg) (s : State) : Host.Outcome State Fault Refusal :=
  if inMemory (effectiveAddress s 2) then
    .next (s.setMem (s.mem.writeBytes (effectiveAddress s 0) (decimalDigits (s.reg x)))).advance
  else .next (s.raise .addressOutOfRange)

/-- FX55 `LD [I], VX` (R194): `V0 … VX` to memory from `I` up; `I` is unchanged (D11). -/
def execLdMemVx (x : Reg) (s : State) : Host.Outcome State Fault Refusal :=
  if inMemory (effectiveAddress s x.val) then
    .next (s.setMem (s.mem.writeBytes (effectiveAddress s 0) (registerBytes s.v (blockSize x)))).advance
  else .next (s.raise .addressOutOfRange)

/-- FX65 `LD VX, [I]` (R195): `V0 … VX` from memory from `I` up; `I` is unchanged (D11). -/
def execLdVxMem (x : Reg) (s : State) : Host.Outcome State Fault Refusal :=
  if inMemory (effectiveAddress s x.val) then
    .next (s.setRegs (loadRegisters s.mem (effectiveAddress s 0) (blockSize x) s.v)).advance
  else .next (s.raise .addressOutOfRange)

end Sys2Proof.Machine
end

