-- ==== Sys2Proof/Machine/Input.lean ====
section
/-! DEFINITION. The keypad, timer and random instructions (spec/45_keypad_timer_random.md): EX9E, EXA1, FX0A, FX07, FX15,
FX18, CXNN. -/

namespace Sys2Proof.Machine

/-- EX9E `SKP VX` (R230): skip if the key `vx` is pressed; `AddressOutOfRange` when `vx > 15` (R237, D8). -/
def execSkpVx (x : Reg) (s : State) : Host.Outcome State Fault Refusal :=
  match keyIndex (s.reg x) with
  | some k => .next (s.skipIf (s.keyPressed k))
  | none => .next (s.raise .addressOutOfRange)

/-- EXA1 `SKNP VX` (R231): skip if the key `vx` is not pressed; `AddressOutOfRange` when `vx > 15` (R237, D8). -/
def execSknpVx (x : Reg) (s : State) : Host.Outcome State Fault Refusal :=
  match keyIndex (s.reg x) with
  | some k => .next (s.skipIf (!s.keyPressed k))
  | none => .next (s.raise .addressOutOfRange)

/-- FX0A `LD VX, K` (R232): the first pressed key, or nothing at all and the same instruction again on the next
step. -/
def execLdVxK (x : Reg) (s : State) : Host.Outcome State Fault Refusal :=
  match s.firstKey with
  | some k => .next (s.setReg x (BitVec.ofNat 8 k.val)).advance
  | none => .next s

/-- FX07 `LD VX, DT` (R233): the value before this step's tick. -/
def execLdVxDt (x : Reg) (s : State) : Host.Outcome State Fault Refusal := .next (s.setReg x s.dt).advance

/-- FX15 `LD DT, VX` (R234). -/
def execLdDtVx (x : Reg) (s : State) : Host.Outcome State Fault Refusal := .next (s.setDt (s.reg x)).advance

/-- FX18 `LD ST, VX` (R235). -/
def execLdStVx (x : Reg) (s : State) : Host.Outcome State Fault Refusal := .next (s.setSt (s.reg x)).advance

/-- CXNN `RND VX, NN` (R236): one byte of the random input, a FREE VALUE (log 1), masked by `NN`. -/
def execRndVxNn (x : Reg) (nn : Byte) (s : State) : Host.Outcome State Fault Refusal :=
  .next ((s.setReg x (Config.rnd s.draws &&& nn)).nextDraw).advance

end Sys2Proof.Machine
end

