-- ==== Sys2Proof/Machine/LoadAlu.lean ====
section
/-! DEFINITION. Load immediate, add immediate and the register-register ALU family (spec/42_load_alu.md): 6XNN, 7XNN,
8XY0 to 8XY7, 8XYE. Register operands are read before anything is written (R125). -/

namespace Sys2Proof.Machine

/-- An instruction whose one result goes to `VX`, with no flag: `V[X] <- b; PC <- PC + 2`. -/
def State.result (s : State) (x : Reg) (b : Byte) : State := (s.setReg x b).advance

/-- An instruction with a flag and a result: the flag to `VF` first, the result to `VX` second (R126, D2), then
`PC <- PC + 2`. With `X = F` the result lands last and the flag is lost (R172). -/
def State.flaggedResult (s : State) (x : Reg) (flag : Bool) (b : Byte) : State := (s.setFlag flag).result x b

/-- 6XNN `LD VX, NN` (R160). -/
def execLdVxNn (x : Reg) (nn : Byte) (s : State) : Host.Outcome State Fault Refusal := .next (s.result x nn)

/-- 7XNN `ADD VX, NN` (R161): modulo 256, no flag. -/
def execAddVxNn (x : Reg) (nn : Byte) (s : State) : Host.Outcome State Fault Refusal :=
  .next (s.result x (s.reg x + nn))

/-- 8XY0 `LD VX, VY` (R162). -/
def execLdVxVy (x y : Reg) (s : State) : Host.Outcome State Fault Refusal := .next (s.result x (s.reg y))

/-- 8XY1 `OR VX, VY` (R163): no flag. -/
def execOrVxVy (x y : Reg) (s : State) : Host.Outcome State Fault Refusal :=
  .next (s.result x (s.reg x ||| s.reg y))

/-- 8XY2 `AND VX, VY` (R164): no flag. -/
def execAndVxVy (x y : Reg) (s : State) : Host.Outcome State Fault Refusal :=
  .next (s.result x (s.reg x &&& s.reg y))

/-- 8XY3 `XOR VX, VY` (R165): no flag. -/
def execXorVxVy (x y : Reg) (s : State) : Host.Outcome State Fault Refusal :=
  .next (s.result x (s.reg x ^^^ s.reg y))

/-- 8XY4 `ADD VX, VY` (R166): the carry out to `VF`, the low 8 bits of the sum to `VX`. -/
def execAddVxVy (x y : Reg) (s : State) : Host.Outcome State Fault Refusal :=
  .next (s.flaggedResult x (carryOut (s.reg x) (s.reg y)) (s.reg x + s.reg y))

/-- 8XY5 `SUB VX, VY` (R167): NOT borrow to `VF`, the difference modulo 256 to `VX`. -/
def execSubVxVy (x y : Reg) (s : State) : Host.Outcome State Fault Refusal :=
  .next (s.flaggedResult x (noBorrow (s.reg x) (s.reg y)) (s.reg x - s.reg y))

/-- 8XY6 `SHR VX` (R168): the logical right shift of `VX` by one; `VY` is neither read nor written. `PC` advances by 2
(R130). -/
def execShrVx (x : Reg) (s : State) : Host.Outcome State Fault Refusal :=
  .next (s.flaggedResult x (lowBit (s.reg x)) (s.reg x >>> 1))

/-- 8XY7 `SUBN VX, VY` (R169): the operands of 8XY5 exchanged. -/
def execSubnVxVy (x y : Reg) (s : State) : Host.Outcome State Fault Refusal :=
  .next (s.flaggedResult x (noBorrow (s.reg y) (s.reg x)) (s.reg y - s.reg x))

/-- 8XYE `SHL VX` (R170): the left shift of `VX` by one, truncated to 8 bits. `PC` advances by 2 (R130). -/
def execShlVx (x : Reg) (s : State) : Host.Outcome State Fault Refusal :=
  .next (s.flaggedResult x (highBit (s.reg x)) (s.reg x <<< 1))

end Sys2Proof.Machine
end

