-- ==== Sys2Proof/Machine/Cycle.lean ====
section
/-! DEFINITION. The step cycle (spec/40_cycle.md R120): halted check, fetch, decode, execute, tick; and the status it
returns (R128). -/

namespace Sys2Proof.Machine

/-- The end of a step after the execute phase has left `t` (R120, R127): a fault ends the step with its cause and no
tick; otherwise the tick follows and the status is `Ok`. `HALT` was 0 when the step began, so it is 1 in `t` exactly
when this instruction raised. -/
def finishStep (t : State) : State × Status := if t.halt then (t, t.cause.status) else (t.tick, .ok)

/-- `step()` with what it returns (R120). -/
def cycle (s : State) : Host.Outcome (State × Status) Fault Refusal :=
  if s.halt then .next (s, s.cause.status)
  else match fetchWord s with
    | none => .next (s.raise .addressOutOfRange, .addressOutOfRange)
    | some w =>
      match decode w with
      | none => .next (s.skipUnknown.tick, .unknownOpcode)
      | some i =>
        match exec i s with
        | .next t => .next (finishStep t)
        | .fault r => .fault r
        | .refused r => .refused r

/-- The status of the step taken from `s`, an output and not state (R36); nothing where a step has no next state. -/
def stepStatus (s : State) : Option Status :=
  match cycle s with
  | .next (_, st) => some st
  | .fault _ => none
  | .refused _ => none

/-- The state a step leaves, without its status. -/
def nextState (s : State) : Host.Outcome State Fault Refusal :=
  match cycle s with
  | .next (t, _) => .next t
  | .fault r => .fault r
  | .refused r => .refused r

end Sys2Proof.Machine
end

