-- ==== Sys2Proof/Machine/Step.lean ====
section
/-! DEFINITION. One step of the engine (spec/00_scope.md R13, spec/40_cycle.md R120), and placing an instruction where
the next step fetches it. -/

namespace Sys2Proof.Machine

/-- One `step()`: the state it leaves. `stepStatus` is what it returns. -/
def step (s : State) : Host.Outcome State Fault Refusal := nextState s

/-- `s` with the two bytes of an instruction stored at `PC` and `PC + 1`, high byte first (R64, R90), so that the next
step fetches it. The engine fetches at `PC` from memory and nothing else selects a program (log 6); a halted engine
and one whose `PC` is 0x0FFF or more fetch nothing, whatever memory holds. -/
def State.withFetchWord (s : State) (nbits w : Nat) : State :=
  s.setMem (s.mem.writeBytes s.pc.toNat [hiByte (tableWord nbits w), loByte (tableWord nbits w)])

end Sys2Proof.Machine
end

