-- ==== Sys2Proof/Machine/HostMoves.lean ====
section
/-! DEFINITION. What the host may do to the engine, and when (spec/70_reset_and_hazards.md R290 to R297). A session is an
engine together with how far the host is in the order of R293 and R294: that is the host's protocol, not a state of the
engine (R20), so it stands beside `State`. -/

namespace Sys2Proof.Machine

/-- The moves of R297; "a move not listed is not available to the host". -/
inductive HostMove where
  | reset
  | loadProgram (bytes : List Byte)
  | setKeys (keys : BitVec 16)
  | step
  | readFramebuffer
  | readDirty
  | clearDirty
  | readSound
deriving DecidableEq, Repr

/-- What a move returns (R297). -/
inductive Reply where
  | done
  | status (st : Status)
  | framebuffer (fb : Framebuffer)
  | dirty (d : Bool)
  /-- `ST`; the host plays a tone iff it is nonzero (R267). -/
  | sound (st : Byte)
deriving DecidableEq, Repr

/-- How far the host is: a load is admitted once, after a reset and before the first step (R293). -/
inductive Phase where
  | fresh
  | loaded
  | stepped
deriving DecidableEq, Repr

structure Session where
  machine : State
  phase : Phase
deriving DecidableEq, Repr

/-- Power-on of an engine whose font table is `font`: right after reset, nothing loaded. -/
def Session.startWith (font : Font) : Session := ⟨State.resetWith font, .fresh⟩

/-- Power-on with the spec's default font (log 2). -/
def Session.start : Session := Session.startWith defaultFont

/-- `reset` as a move, at any time (R290): every component of R20 and the keypad at its reset value. The font table is
the engine's own (R42, log 2), and the random input does not start again (log 1): the bytes already drawn stay drawn. -/
def State.resetMove (s : State) : State := { State.resetWith s.mem.font with draws := s.draws }

/-- `loadProgram(bytes)` (R292): a copy to 0x200 and up, or `ProgramTooLarge` with memory untouched. It touches no
register and not `PC`. -/
def State.loadProgram (s : State) (bytes : List Byte) : State × Status :=
  if Config.progMax < bytes.length then (s, .programTooLarge)
  else (s.setMem (s.mem.writeBytes Config.progBase bytes), .ok)

/-- `setKeys`: all 16 keys at once (R34, R297). -/
def State.setKeys (s : State) (keys : BitVec 16) : State := { s with keys := keys }

/-- `clearDirty`: `DIRTY <- 0`, by the host alone (R33, R297). -/
def State.clearDirty (s : State) : State := { s with dirty := false }

/-- The sound output `SOUND = [ST ≠ 0]`, sampled between steps (R267). -/
def State.soundOn (s : State) : Bool := s.st != 0

/-- A load in a session (R293): refused unless it is the first after a reset and before any step; a failed load changes
nothing and may be followed by another attempt. -/
def Session.load (h : Session) (bytes : List Byte) : Host.Outcome (Session × Reply) Fault Refusal :=
  match h.phase with
  | .fresh =>
    match h.machine.loadProgram bytes with
    | (t, .ok) => .next (⟨t, .loaded⟩, .status .ok)
    | (_, st) => .next (h, .status st)
  | .loaded => .refused .loadNotAdmitted
  | .stepped => .refused .loadNotAdmitted

/-- A step in a session (R297). -/
def Session.step (h : Session) : Host.Outcome (Session × Reply) Fault Refusal :=
  match cycle h.machine with
  | .next (t, st) => .next (⟨t, .stepped⟩, .status st)
  | .fault r => .fault r
  | .refused r => .refused r

/-- One move of the host, between steps (R296, R297). -/
def Session.move (m : HostMove) (h : Session) : Host.Outcome (Session × Reply) Fault Refusal :=
  match m with
  | .reset => .next (⟨h.machine.resetMove, .fresh⟩, .done)
  | .loadProgram bytes => h.load bytes
  | .setKeys keys => .next ({ h with machine := h.machine.setKeys keys }, .done)
  | .step => h.step
  | .readFramebuffer => .next (h, .framebuffer h.machine.fb)
  | .readDirty => .next (h, .dirty h.machine.dirty)
  | .clearDirty => .next ({ h with machine := h.machine.clearDirty }, .done)
  | .readSound => .next (h, .sound h.machine.st)

end Sys2Proof.Machine
end

