-- ==== Sys2Proof/Safety.lean ====
section
/-! DEFINITION. The words claims are stated in: the invariant of the machine's reachable states (spec/10_state.md R24,
R27, R28, R35), what each instruction may write (R43), what counts as a step that went well, and the three stable
situations of spec/70_reset_and_hazards.md R307. -/

namespace Sys2Proof.Machine

/-- The invariant of the reachable states: memory in canonical form; `I ≤ 0x0FFF` (R27); `PC ≤ 0x10FE` (R24); every
stack entry at most 0x1000 (R28); `CAUSE` is nonzero exactly while `HALT = 1` (R251). That `SP` is at most 16 (R29) is in
its type. -/
abbrev State.Inv (s : State) : Prop :=
  s.mem.wf ∧ s.i.toNat ≤ 0x0FFF ∧ s.pc.toNat ≤ 0x10FE ∧ (∀ k : Fin 16, s.stack[k].toNat ≤ 0x1000) ∧
    (s.halt = true ↔ s.cause ≠ .none)

/-- What an instruction may write, component by component. -/
structure Footprint where
  /-- The general registers written. -/
  regs : Reg → Bool
  index : Bool
  sp : Bool
  /-- The stack entries written. -/
  entries : Fin 16 → Bool
  /-- The bytes of memory stored to: `size` of them from `base` up. -/
  base : Nat
  size : Nat
  fb : Bool
  dirty : Bool
  dt : Bool
  st : Bool
  draws : Bool

/-- Nothing but `PC`. -/
def Footprint.nothing : Footprint :=
  { regs := fun _ => false, index := false, sp := false, entries := fun _ => false, base := 0, size := 0, fb := false,
    dirty := false, dt := false, st := false, draws := false }

/-- Only the register `x` (and `PC`). -/
def Footprint.reg (x : Reg) : Footprint := { Footprint.nothing with regs := fun k => k == x }

/-- Only the register `x` and `VF` (and `PC`). -/
def Footprint.regFlag (x : Reg) : Footprint := { Footprint.nothing with regs := fun k => k == x || k == Reg.VF }

/-- The rows of the table of R43: the "W" columns of each instruction, executed in the state `s`. The addresses stored
to are those the meanings of FX33 and FX55 use. -/
def footprint (i : Instr) (s : State) : Footprint :=
  match i with
  | .cls => { Footprint.nothing with fb := true }
  | .ret => { Footprint.nothing with sp := true }
  | .jpNnn _ | .jpV0Nnn _ => Footprint.nothing
  | .callNnn _ => { Footprint.nothing with sp := true, entries := fun k => k.val == s.sp.val }
  | .seVxNn _ _ | .sneVxNn _ _ | .seVxVy _ _ _ | .sneVxVy _ _ _ | .skpVx _ | .sknpVx _ => Footprint.nothing
  | .ldVxNn x _ | .addVxNn x _ | .ldVxVy x _ | .orVxVy x _ | .andVxVy x _ | .xorVxVy x _ => Footprint.reg x
  | .addVxVy x _ | .subVxVy x _ | .shrVx x _ | .subnVxVy x _ | .shlVx x _ => Footprint.regFlag x
  | .ldINnn _ | .ldFVx _ => { Footprint.nothing with index := true }
  | .addIVx _ => { Footprint.nothing with index := true, regs := fun k => k == Reg.VF }
  | .rndVxNn x _ => { Footprint.reg x with draws := true }
  | .drwVxVyN _ _ _ => { Footprint.nothing with regs := fun k => k == Reg.VF, fb := true, dirty := true }
  | .ldVxDt x | .ldVxK x => Footprint.reg x
  | .ldDtVx _ => { Footprint.nothing with dt := true }
  | .ldStVx _ => { Footprint.nothing with st := true }
  | .ldBVx _ => { Footprint.nothing with base := effectiveAddress s 0, size := 3 }
  | .ldMemVx x => { Footprint.nothing with base := effectiveAddress s 0, size := blockSize x }
  | .ldVxMem x => { Footprint.nothing with regs := fun k => decide (k ≤ x) }

/-- `t` differs from `s` in nothing that `f` does not name, `PC`, `HALT` and `CAUSE` apart: every other register, the
index register, the stack pointer, every other stack entry, EVERY BYTE OF MEMORY outside the bytes stored to, the
framebuffer, the dirty flag, the timers, the random input; and neither the keypad nor the engine's `FONT`, which no
instruction writes. -/
def Footprint.Within (f : Footprint) (s t : State) : Prop :=
  (∀ k, f.regs k = false → t.reg k = s.reg k) ∧
  (f.index = false → t.i = s.i) ∧
  (f.sp = false → t.sp = s.sp) ∧
  (∀ k : Fin 16, f.entries k = false → t.stack[k] = s.stack[k]) ∧
  (∀ a, ¬(f.base ≤ a ∧ a < f.base + f.size) → t.mem.read a = s.mem.read a) ∧
  (f.fb = false → t.fb = s.fb) ∧
  (f.dirty = false → t.dirty = s.dirty) ∧
  (f.dt = false → t.dt = s.dt) ∧
  (f.st = false → t.st = s.st) ∧
  (f.draws = false → t.draws = s.draws) ∧
  t.keys = s.keys ∧ t.mem.font = s.mem.font

/-- The instruction completed without a fault and wrote nothing but what its row of R43 names. -/
def Framed (i : Instr) (s t : State) : Prop :=
  (footprint i s).Within s t ∧ t.halt = s.halt ∧ t.cause = s.cause

/-- A step that went well: a next state that is not halted. A halted state "refutes any claim of normal completion"
(R257). -/
def NormalStep (s t : State) : Prop := step s = .next t ∧ t.halt = false

/-- The instruction at `PC`, if the fetch succeeds and the word is one (R122, R123). -/
def instrAtPc (s : State) : Option Instr := (fetchWord s).bind decode

/-- The conditions of the table of R252 that an instruction itself can raise `AddressOutOfRange` on, in exact integers;
the keypad row is the spec's own extension (D8). -/
def addressFault (i : Instr) (s : State) : Prop :=
  match i with
  | .drwVxVyN _ _ n => 1 ≤ n.toNat ∧ 0x0FFF < s.i.toNat + n.toNat - 1
  | .ldBVx _ => 0x0FFF < s.i.toNat + 2
  | .ldMemVx x | .ldVxMem x => 0x0FFF < s.i.toNat + x.val
  | .skpVx x | .sknpVx x => 0x0F < (s.reg x).toNat
  | .cls | .ret | .jpNnn _ | .callNnn _ | .jpV0Nnn _ => False
  | .seVxNn _ _ | .sneVxNn _ _ | .seVxVy _ _ _ | .sneVxVy _ _ _ => False
  | .ldVxNn _ _ | .addVxNn _ _ | .ldVxVy _ _ | .orVxVy _ _ | .andVxVy _ _ | .xorVxVy _ _ => False
  | .addVxVy _ _ | .subVxVy _ _ | .shrVx _ _ | .subnVxVy _ _ | .shlVx _ _ => False
  | .ldINnn _ | .addIVx _ | .ldFVx _ | .rndVxNn _ _ => False
  | .ldVxDt _ | .ldVxK _ | .ldDtVx _ | .ldStVx _ => False

/-- The pixel (`px`, `py`) is one of the set `S` of R212, the pixels addressed by the 1-bits of the sprite that
`DRW VX, VY, N` draws in `s`. -/
def SpriteCovers (s : State) (x y : Reg) (n : Nibble) (px : Fin 64) (py : Fin 32) : Prop :=
  ∃ row col : Nat, row < n.toNat ∧ col < 8 ∧ (s.mem.read (s.i.toNat + row)).getLsbD (7 - col) = true ∧
    px.val = ((s.reg x).toNat + col) % 64 ∧ py.val = ((s.reg y).toNat + row) % 32

/-- The families of the opcode table, by the file of the spec that holds their rules. -/
inductive Family where
  /-- spec/41_flow.md -/
  | flow
  /-- spec/42_load_alu.md -/
  | loadAlu
  /-- spec/43_index_memory.md -/
  | indexMemory
  /-- spec/44_display.md -/
  | display
  /-- spec/45_keypad_timer_random.md -/
  | input
deriving DecidableEq, Repr

def instrFamily : Instr → Family
  | .ret | .jpNnn _ | .callNnn _ | .jpV0Nnn _ => .flow
  | .seVxNn _ _ | .sneVxNn _ _ | .seVxVy _ _ _ | .sneVxVy _ _ _ => .flow
  | .ldVxNn _ _ | .addVxNn _ _ | .ldVxVy _ _ | .orVxVy _ _ | .andVxVy _ _ | .xorVxVy _ _ => .loadAlu
  | .addVxVy _ _ | .subVxVy _ _ | .shrVx _ _ | .subnVxVy _ _ | .shlVx _ _ => .loadAlu
  | .ldINnn _ | .addIVx _ | .ldFVx _ | .ldBVx _ | .ldMemVx _ | .ldVxMem _ => .indexMemory
  | .cls | .drwVxVyN _ _ _ => .display
  | .skpVx _ | .sknpVx _ | .ldVxK _ | .ldVxDt _ | .ldDtVx _ | .ldStVx _ | .rndVxNn _ _ => .input

/-- The situation (b) of R307: `PC` stands on a jump to itself. -/
def State.SelfJump (s : State) : Prop :=
  ∃ nnn, instrAtPc s = some (.jpNnn nnn) ∧ addrOperand nnn = s.pc

/-- The situation (c) of R307, the pseudo-state of R38: `PC` stands on an FX0A and no key is pressed. -/
def State.AwaitingKey (s : State) : Prop :=
  (∃ x, instrAtPc s = some (.ldVxK x)) ∧ ∀ k : Reg, s.keyPressed k = false

end Sys2Proof.Machine
end

