-- ==== Sys2Proof/Certificates/Slice0/Obligations.lean ====
section
/-! DEFINITION. The statements for the provers, one definition each, in the order of OBLIGATIONS.json. They come from the
numbered rules of the spec. A clause that rests on a decision of the spec (D<n>, spec/92_eei_decisions.md) or on an
assumption of the model says so. `Framed i s t` (Sys2Proof/Safety.lean) says that the instruction completed without a
fault and changed nothing, every byte of memory included, but what its row of the table of R43 names. -/

open Sys2Proof Sys2Proof.Machine

/-! ### Encoding (spec/30_encoding.md) -/

/-- The encoder's word of every instruction, with every operand at every value its field can hold, decodes to that
instruction; in memory too, whatever bytes follow. No bit of an encoding is dropped (R90, R92, R96, R99). -/
def Obligations.DecodeOfEncodeIsTheInstruction : Prop :=
  ∀ (i : Instr) (rest : List Byte),
    decode (encode i) = some i ∧ decodeBytes (encodeBytes i ++ rest) = .instr i rest

/-- Every defined word is the encoding of what it decodes to: the ignored bits of R97 are kept too. -/
def Obligations.EncodeOfDecodeIsTheWord : Prop :=
  ∀ (w : Word) (i : Instr), decode w = some i → encode i = w

/-- The two-level dispatch of R94 and R95 is the opcode map of R96: a word is an instruction exactly when it matches that
instruction's row, and no two rows overlap. (The numerals are presumed, R105, and the strictness of the sub-opcodes is the
spec's decision D14; log 7 and 10.) -/
def Obligations.DecodeFollowsTheOpcodeMap : Prop :=
  ∀ w : Word,
    (∀ i, decode w = some i → i.row ∈ opcodeMap ∧ w &&& i.row.mask = i.row.pattern) ∧
    (∀ r ∈ opcodeMap, w &&& r.mask = r.pattern → ∃ i, decode w = some i ∧ i.row = r) ∧
    (∀ r ∈ opcodeMap, ∀ r' ∈ opcodeMap, w &&& r.mask = r.pattern → w &&& r'.mask = r'.pattern → r = r')

/-- The unknown words are exactly those of the four rows of the table of R98 (which rests on D14, log 7). -/
def Obligations.UnknownWordsAreExactlyTheListedOnes : Prop :=
  ∀ w : Word, decode w = none ↔
    (fieldF w = 0x0#4 ∧ fieldNNN w ∉ [0x0E0#12, 0x0EE#12]) ∨
    (fieldF w = 0x8#4 ∧ fieldN w ∈ [0x8#4, 0x9#4, 0xA#4, 0xB#4, 0xC#4, 0xD#4, 0xF#4]) ∨
    (fieldF w = 0xE#4 ∧ fieldNN w ∉ [0x9E#8, 0xA1#8]) ∨
    (fieldF w = 0xF#4 ∧
      fieldNN w ∉ [0x07#8, 0x0A#8, 0x15#8, 0x18#8, 0x1E#8, 0x29#8, 0x33#8, 0x55#8, 0x65#8])

/-- Words written out in the examples of the rules and in spec/95_test_vectors.md decode to what they stand for there. The
numerals of most of these rows are presumed (R105, D17; log 10), and that 0x5127 executes while 0x8128 and 0xE19F are
unknown is the spec's decision D14 (log 7). -/
def Obligations.WordsOfTheExamplesDecode : Prop :=
  decode 0x00E0#16 = some .cls ∧ decode 0x00EE#16 = some .ret ∧ decode 0x2300#16 = some (.callNnn 0x300) ∧
  decode 0x4A05#16 = some (.sneVxNn 10 0x05) ∧ decode 0x5127#16 = some (.seVxVy 1 2 7) ∧
  decode 0x8014#16 = some (.addVxVy 0 1) ∧ decode 0x830E#16 = some (.shlVx 3 0) ∧ decode 0x8128#16 = none ∧
  decode 0xA206#16 = some (.ldINnn 0x206) ∧ decode 0xD012#16 = some (.drwVxVyN 0 1 2) ∧
  decode 0xF10A#16 = some (.ldVxK 1) ∧ decode 0xF255#16 = some (.ldMemVx 2) ∧ decode 0xE19F#16 = none

/-- The ignored bits have no effect: "any value of the low nibble executes the skip", and the shifts use no `Y` (R97,
decisions D14 and D18, log 7). -/
def Obligations.IgnoredBitsHaveNoEffect : Prop :=
  ∀ (x y y' : Reg) (n n' : Nibble) (s : State),
    exec (.seVxVy x y n) s = exec (.seVxVy x y n') s ∧ exec (.sneVxVy x y n) s = exec (.sneVxVy x y n') s ∧
    exec (.shrVx x y) s = exec (.shrVx x y') s ∧ exec (.shlVx x y) s = exec (.shlVx x y') s

/-! ### The step cycle and the faults (spec/40_cycle.md, spec/60_exceptions.md) -/

/-- A step runs the decoded instruction: when the engine is not halted and the word at `PC` decodes to `i`, the step is
`exec i` at that state, followed by one tick of both timers and status `Ok` if it did not fault, and left as it is with
the cause as the status if it did (R120, R123, R127, R128). -/
def Obligations.StepRunsTheDecodedInstruction : Prop :=
  ∀ (s t : State) (w : Word) (i : Instr),
    s.halt = false → fetchWord s = some w → decode w = some i → exec i s = .next t →
    (t.halt = false → step s = .next { t with dt := countDown t.dt, st := countDown t.st } ∧
      stepStatus s = some .ok) ∧
    (t.halt = true → step s = .next t ∧ stepStatus s = some t.cause.status)

/-- The word is the two bytes at `PC` and `PC + 1`, high byte first; the fetch fails with `AddressOutOfRange` exactly when
`PC + 1 ≥ 4096` (R122). That an odd `PC` is fetched from as it stands is the spec's decision D3 (log 19), and that the
faulting step leaves `PC` is D5 (log 12). -/
def Obligations.FetchIsBigEndianAndBounded : Prop :=
  ∀ s : State, s.halt = false →
    (s.pc.toNat + 1 < 4096 → ∃ w, fetchWord s = some w ∧
      w.toNat = 256 * (s.mem.read s.pc.toNat).toNat + (s.mem.read (s.pc.toNat + 1)).toNat) ∧
    (4096 ≤ s.pc.toNat + 1 → fetchWord s = none ∧ stepStatus s = some .addressOutOfRange ∧
      ∃ t, step s = .next t ∧ t.pc = s.pc)

/-- R129: an unknown word is a full step with status `UnknownOpcode`: `PC + 2`, the tick, nothing else. An engine just
reset walks through zeroed memory, 1792 steps that report `UnknownOpcode`, and the 1793rd step faults at 0x1000, whatever the
parameter `FONT`. -/
def Obligations.UnknownWordAdvancesAndTicks : Prop :=
  (∀ (s : State) (w : Word), s.halt = false → fetchWord s = some w → decode w = none →
    step s = .next { s with pc := s.pc + 2, dt := countDown s.dt, st := countDown s.st } ∧
    stepStatus s = some .unknownOpcode) ∧
  ∀ font : Font,
    (∃ t, step (State.resetWith font) = .next t ∧ t.pc = 0x202#16) ∧
    (∀ k, k < 1792 →
      ∃ t, Sys2Proof.core.run k (State.resetWith font) = .next t ∧ stepStatus t = some .unknownOpcode) ∧
    (∃ t, Sys2Proof.core.run 1792 (State.resetWith font) = .next t ∧ t.pc = 0x1000#16 ∧
      stepStatus t = some .addressOutOfRange)

/-- A halted engine's step changes nothing and returns `CAUSE`: the spec's decision D6 (R121, R257; log 12). -/
def Obligations.HaltedStepChangesNothing : Prop :=
  ∀ s : State, s.halt = true → step s = .next s ∧ stepStatus s = some s.cause.status

/-- R128: every step answers a next state and a status: `Ok` for a defined instruction that completed, `UnknownOpcode`
for an unknown word, the fatal cause for a step that faulted. -/
def Obligations.EveryStepAnswersWithItsStatus : Prop :=
  ∀ s : State, ∃ t, step s = .next t ∧
    (s.halt = false → t.halt = false → ∀ i, instrAtPc s = some i → stepStatus s = some .ok) ∧
    (s.halt = false → ∀ w, fetchWord s = some w → decode w = none → stepStatus s = some .unknownOpcode) ∧
    (t.halt = true → stepStatus s = some t.cause.status)

/-- Fatal faults are precise: a step that halts an engine writes `HALT` and `CAUSE` and nothing else, not even the
timers; `PC` still addresses the faulting instruction. The spec's decision D5 (R256, log 12). -/
def Obligations.FatalFaultsWriteOnlyHaltAndCause : Prop :=
  ∀ s t : State, s.halt = false → step s = .next t → t.halt = true →
    t = { s with halt := true, cause := t.cause } ∧ t.cause ≠ .none ∧ stepStatus s = some t.cause.status

/-- `AddressOutOfRange` is raised exactly where the table of R252 says; its keypad row is the spec's decision D8 (R237,
log 8). -/
def Obligations.AddressOutOfRangeExactlyWhereListed : Prop :=
  ∀ s : State, s.halt = false →
    (stepStatus s = some .addressOutOfRange ↔
      4096 ≤ s.pc.toNat + 1 ∨ ∃ i, instrAtPc s = some i ∧ addressFault i s)

/-- `StackOverflow` is raised exactly by a call on a full stack and `StackUnderflow` exactly by a return on an empty one,
and both halt the engine: the spec's decision D22 (R253, R255; log 12). -/
def Obligations.StackFaultsExactlyOnFullAndEmpty : Prop :=
  ∀ s : State, s.halt = false →
    (stepStatus s = some .stackOverflow ↔ (∃ nnn, instrAtPc s = some (.callNnn nnn)) ∧ s.sp.val = 16) ∧
    (stepStatus s = some .stackUnderflow ↔ instrAtPc s = some .ret ∧ s.sp.val = 0) ∧
    (stepStatus s = some .stackOverflow → step s = .next (s.raise .stackOverflow)) ∧
    (stepStatus s = some .stackUnderflow → step s = .next (s.raise .stackUnderflow))

/-- Every step that does not fault ticks each timer once, from the value the execute phase left: one below the loaded
value for FX15 and FX18, one below the old value for everything else, never below zero (R127, R238). That a faulting
step does not tick is the spec's decision D5 (log 12). -/
def Obligations.EveryNormalStepTicksBothTimersOnce : Prop :=
  ∀ s t : State, NormalStep s t →
    ((∀ x, instrAtPc s = some (.ldDtVx x) → t.dt.toNat = (s.reg x).toNat - 1) ∧
      ((∀ x, instrAtPc s ≠ some (.ldDtVx x)) → t.dt.toNat = s.dt.toNat - 1)) ∧
    ((∀ x, instrAtPc s = some (.ldStVx x) → t.st.toNat = (s.reg x).toNat - 1) ∧
      ((∀ x, instrAtPc s ≠ some (.ldStVx x)) → t.st.toNat = s.st.toNat - 1))

/-! ### Invariants -/

/-- THE HEADLINE INVARIANT. Every step, from every state that meets it, keeps: memory in canonical form; `I ≤ 0x0FFF`
(R27); `PC ≤ 0x10FE` (R24); every stack entry at most 0x1000 (R28); `CAUSE` nonzero exactly while halted (R251). -/
def Obligations.EveryStepKeepsTheInvariant : Prop :=
  ∀ s t : State, s.Inv → step s = .next t → t.Inv

/-- The invariant holds right after reset, whatever the parameter `FONT`. -/
def Obligations.InvariantHoldsAtReset : Prop := State.reset.Inv ∧ ∀ font : Font, (State.resetWith font).Inv

/-- Every move of the host keeps the invariant: a load of any image, a reset, the keys, the steps (R292, R297). -/
def Obligations.HostMovesKeepTheInvariant : Prop :=
  ∀ (m : HostMove) (h h' : Session) (r : Reply), h.machine.Inv → h.move m = .next (h', r) → h'.machine.Inv

/-- Memories in canonical form, of engines with the same `FONT`, that read alike at every address 0x000 to 0xFFF are the
same data (R61; the representation and its `FONT` are the model's, log 2). -/
def Obligations.CanonicalMemoriesThatReadAlikeAreEqual : Prop :=
  ∀ m m' : Memory, m.font = m'.font → m.wf → m'.wf → (∀ a, a < 4096 → m.read a = m'.read a) → m = m'

/-- A read returns the last value written and a write leaves every other address alone (R61, R69), the reserved range and
the font included: there is no write protection, the spec's decision D4 (R70, log 20). -/
def Obligations.MemoryReadReturnsTheLastWrite : Prop :=
  ∀ (m : Memory) (a : Nat) (b : Byte), a < 4096 →
    (m.write a b).read a = b ∧ (∀ c, c ≠ a → (m.write a b).read c = m.read c) ∧ (m.wf → (m.write a b).wf)

/-- A store into the next instruction is seen by the very next fetch (R75, an inference of the spec). -/
def Obligations.StoreIsSeenByTheNextFetch : Prop :=
  ∀ (s : State) (x : Reg), 1 ≤ x.val → s.i = s.pc + 2 → s.i.toNat + x.val ≤ 0x0FFF →
    ∃ t, exec (.ldMemVx x) s = .next t ∧ fetchWord t = some (wordOfBytes (s.reg 0) (s.reg 1))

/-! ### Whole-machine rules -/

/-- The keypad influences no step but those of EX9E, EXA1 and FX0A, and NO step, theirs included, writes it (R34, R43),
nor the engine's parameter `FONT` (R42). -/
def Obligations.KeysInfluenceOnlyTheKeypadInstructions : Prop :=
  (∀ (s t : State) (k : BitVec 16),
    (∀ x, instrAtPc s ≠ some (.skpVx x) ∧ instrAtPc s ≠ some (.sknpVx x) ∧ instrAtPc s ≠ some (.ldVxK x)) →
    step s = .next t → step { s with keys := k } = .next { t with keys := k }) ∧
  (∀ s t : State, step s = .next t → t.keys = s.keys ∧ t.mem.font = s.mem.font)

/-- The sound timer is "never read by any instruction" (R31): what it holds changes nothing but itself in a step. -/
def Obligations.SoundTimerInfluencesNothingElse : Prop :=
  ∀ (s t : State) (b : Byte), step s = .next t →
    ∃ c, step { s with st := b } = .next { t with st := c } ∧ stepStatus { s with st := b } = stepStatus s

/-- The framebuffer influences no step but that of DXYN, and there nothing but itself and `VF` (R32, R43). -/
def Obligations.FramebufferInfluencesOnlyDraws : Prop :=
  ∀ (s t : State) (fb : Framebuffer), step s = .next t →
    ((∀ x y n, instrAtPc s ≠ some (.drwVxVyN x y n)) →
      ∃ fb', step { s with fb := fb } = .next { t with fb := fb' }) ∧
    (∃ fb' f, step { s with fb := fb } = .next { t with fb := fb', v := t.v.set 15 f })

/-- `DIRTY` is set by the draws that complete and by nothing else, and no step clears it (R33, R214); that 00E0 leaves it
alone is the spec's decision D10 (log 18). -/
def Obligations.DirtyIsSetByDrawsOnlyAndClearedByNoStep : Prop :=
  ∀ s t : State, step s = .next t →
    (t.dirty = true ↔ s.dirty = true ∨
      (s.halt = false ∧ t.halt = false ∧ ∃ x y n, instrAtPc s = some (.drwVxVyN x y n)))

/-- Exactly one byte of the random input is consumed by an executed CXNN and none by any other step, that of a halted engine
standing on a CXNN included (R236; the random input is the spec's decision D15, log 1, and the halt latch D6, log 12). -/
def Obligations.RandomBytesAreDrawnByRndOnly : Prop :=
  ∀ s t : State, step s = .next t →
    ((∃ x nn, s.halt = false ∧ instrAtPc s = some (.rndVxNn x nn)) → t.draws = s.draws + 1) ∧
    (s.halt = true ∨ (∀ x nn, instrAtPc s ≠ some (.rndVxNn x nn)) → t.draws = s.draws)

/-! ### Frames: the table of R43, family by family

When `exec` gives a next state, either the instruction raised, and then nothing but `HALT` and `CAUSE` changed (the spec's
decision D5, log 12), or it changed nothing but what its row of R43 names. -/

/-- 00EE writes `SP`, 2NNN writes `SP` and the stack entry `SP` indexes, and the jumps and skips write nothing: no general
register, no byte of memory. A 2NNN or 00EE that raises writes `HALT` and `CAUSE` alone: the spec's decisions D5 and D22
(log 12). -/
def Obligations.FrameOfControlTransfer : Prop :=
  ∀ (i : Instr) (s t : State), instrFamily i = .flow → exec i s = .next t →
    Framed i s t ∨ t = s.raise t.cause

/-- The loads and the ALU write `VX`, and the five flag-writing forms `VF` besides; nothing else, and they never
fault. -/
def Obligations.FrameOfLoadsAndAlu : Prop :=
  ∀ (i : Instr) (s t : State), instrFamily i = .loadAlu → exec i s = .next t → Framed i s t

/-- ANNN and FX29 write `I`, FX1E writes `I` and `VF`, FX65 writes `V0 … VX`; FX33 and FX55 write no register and no byte
of memory but the 3, or `X + 1`, bytes from `effectiveAddress s 0` up, the address the meanings store to. That FX55 and
FX65 leave `I` is the spec's decision D11 (log 16), and that an FX33, FX55 or FX65 that raises writes `HALT` and `CAUSE`
alone is D5 (log 12). -/
def Obligations.FrameOfIndexAndMemory : Prop :=
  ∀ (i : Instr) (s t : State), instrFamily i = .indexMemory → exec i s = .next t →
    Framed i s t ∨ t = s.raise t.cause

/-- 00E0 writes the framebuffer alone (that it leaves `DIRTY` is the spec's decision D10, log 18); DXYN writes the framebuffer, `VF` and `DIRTY`, and not `I` nor memory; EX9E and
EXA1 write nothing, FX07 and FX0A write `VX`, CXNN writes `VX` and consumes a random byte, FX15 writes `DT` and FX18
writes `ST`. A DXYN, EX9E or EXA1 that raises writes `HALT` and `CAUSE` alone: D5 (log 12), and for the keypad index D8
(log 8). -/
def Obligations.FrameOfDisplayKeypadTimerRandom : Prop :=
  ∀ (i : Instr) (s t : State), instrFamily i = .display ∨ instrFamily i = .input → exec i s = .next t →
    Framed i s t ∨ t = s.raise t.cause

/-! ### Control transfer (spec/41_flow.md) -/

/-- `PC <- zext_16(NNN)` (R141), and `PC <-` the exact sum of `NNN` and the value of `V0`, not masked to 12 bits (R143).
The numerals 1NNN and BNNN are presumed (R105, D17; log 10). -/
def Obligations.JumpsSetThePc : Prop :=
  (∀ w : Word, fieldF w = 0x1#4 → decode w = some (.jpNnn (fieldNNN w))) ∧
  (∀ w : Word, fieldF w = 0xB#4 → decode w = some (.jpV0Nnn (fieldNNN w))) ∧
  ∀ (nnn : Addr) (s : State),
    (∃ t, exec (.jpNnn nnn) s = .next t ∧ Framed (.jpNnn nnn) s t ∧ t.pc.toNat = nnn.toNat) ∧
    (∃ t, exec (.jpV0Nnn nnn) s = .next t ∧ Framed (.jpV0Nnn nnn) s t ∧
      t.pc.toNat = nnn.toNat + (s.reg 0).toNat)

/-- A call below 16 levels pushes `PC + 2` at the old `SP`, increments `SP` and jumps (R142; entries are 16 bits wide by
D13, log 15). -/
def Obligations.CallPushesTheReturnAddress : Prop :=
  ∀ (nnn : Addr) (s : State) (h : s.sp.val < 16),
    ∃ t, exec (.callNnn nnn) s = .next t ∧ Framed (.callNnn nnn) s t ∧
      t.stack[s.sp.val] = s.pc + 2 ∧ t.sp.val = s.sp.val + 1 ∧ t.pc.toNat = nnn.toNat

/-- A return with at least one call outstanding decrements `SP` and takes the popped entry as `PC`, with no further
increment; no entry is cleared (R140, R28). -/
def Obligations.ReturnPopsTheReturnAddress : Prop :=
  ∀ (s : State) (h : 0 < s.sp.val),
    ∃ t, exec .ret s = .next t ∧ Framed .ret s t ∧
      t.sp.val = s.sp.val - 1 ∧ t.pc = s.stack[s.sp.val - 1] ∧ t.stack = s.stack

/-- A call and the return after it come back to the instruction after the call with the stack pointer as it was, whatever
the called code changed in between other than the stack (§8, S4 of spec/95_test_vectors.md). -/
def Obligations.ReturnUndoesCall : Prop :=
  ∀ (nnn : Addr) (s t u : State), s.sp.val < 16 → exec (.callNnn nnn) s = .next t → u.stack = t.stack → u.sp = t.sp →
    ∃ r, exec .ret u = .next r ∧ r.pc = s.pc + 2 ∧ r.sp = s.sp

/-- 3XNN skips the next two bytes when `VX` equals `NN` (R144), 4XNN when it differs (R145). The numerals are presumed
(R105, D17; log 10). -/
def Obligations.SkipsOnRegisterAndImmediate : Prop :=
  (∀ w : Word, fieldF w = 0x3#4 → decode w = some (.seVxNn (fieldX w) (fieldNN w))) ∧
  (∀ w : Word, fieldF w = 0x4#4 → decode w = some (.sneVxNn (fieldX w) (fieldNN w))) ∧
  ∀ (x : Reg) (nn : Byte) (s : State),
    (∃ t, exec (.seVxNn x nn) s = .next t ∧ Framed (.seVxNn x nn) s t ∧
      (s.reg x = nn → t.pc = s.pc + 4) ∧ (s.reg x ≠ nn → t.pc = s.pc + 2)) ∧
    (∃ t, exec (.sneVxNn x nn) s = .next t ∧ Framed (.sneVxNn x nn) s t ∧
      (s.reg x ≠ nn → t.pc = s.pc + 4) ∧ (s.reg x = nn → t.pc = s.pc + 2))

/-- 5XYN skips when the registers are equal, 9XYN when they differ, whatever the ignored nibble (R146, R147; D14,
log 7). `X = Y` always skips, and never skips. -/
def Obligations.SkipsOnTwoRegisters : Prop :=
  ∀ (x y : Reg) (n : Nibble) (s : State),
    (∃ t, exec (.seVxVy x y n) s = .next t ∧ Framed (.seVxVy x y n) s t ∧
      (s.reg x = s.reg y → t.pc = s.pc + 4) ∧ (s.reg x ≠ s.reg y → t.pc = s.pc + 2)) ∧
    (∃ t, exec (.sneVxVy x y n) s = .next t ∧ Framed (.sneVxVy x y n) s t ∧
      (s.reg x ≠ s.reg y → t.pc = s.pc + 4) ∧ (s.reg x = s.reg y → t.pc = s.pc + 2))

/-! ### Loads and the ALU (spec/42_load_alu.md) -/

/-- `VX <- NN` (R160), and `VX <- (VX + NN) mod 256` with no flag (R161); `X = F` treats `VF` as any register. The numerals
6XNN and 7XNN are presumed (R105, D17; log 10). -/
def Obligations.ImmediateLoadAndAdd : Prop :=
  (∀ w : Word, fieldF w = 0x6#4 → decode w = some (.ldVxNn (fieldX w) (fieldNN w))) ∧
  (∀ w : Word, fieldF w = 0x7#4 → decode w = some (.addVxNn (fieldX w) (fieldNN w))) ∧
  ∀ (x : Reg) (nn : Byte) (s : State),
    (∃ t, exec (.ldVxNn x nn) s = .next t ∧ Framed (.ldVxNn x nn) s t ∧ t.reg x = nn ∧ t.pc = s.pc + 2) ∧
    (∃ t, exec (.addVxNn x nn) s = .next t ∧ Framed (.addVxNn x nn) s t ∧
      (t.reg x).toNat = ((s.reg x).toNat + nn.toNat) % 256 ∧ t.pc = s.pc + 2)

/-- Assign, OR, AND and XOR into `VX`, bit by bit, with no flag: `VF` changes only if `X = F` (R162 to R165). The numerals
8XY0 to 8XY3 are presumed (R105, D17; log 10). -/
def Obligations.AssignAndLogicWriteNoFlag : Prop :=
  (∀ w : Word, w &&& 0xF00F#16 = 0x8000#16 → decode w = some (.ldVxVy (fieldX w) (fieldY w))) ∧
  (∀ w : Word, w &&& 0xF00F#16 = 0x8001#16 → decode w = some (.orVxVy (fieldX w) (fieldY w))) ∧
  (∀ w : Word, w &&& 0xF00F#16 = 0x8002#16 → decode w = some (.andVxVy (fieldX w) (fieldY w))) ∧
  (∀ w : Word, w &&& 0xF00F#16 = 0x8003#16 → decode w = some (.xorVxVy (fieldX w) (fieldY w))) ∧
  ∀ (x y : Reg) (s : State),
    (∃ t, exec (.ldVxVy x y) s = .next t ∧ Framed (.ldVxVy x y) s t ∧ t.reg x = s.reg y ∧ t.pc = s.pc + 2) ∧
    (∃ t, exec (.orVxVy x y) s = .next t ∧ Framed (.orVxVy x y) s t ∧ t.pc = s.pc + 2 ∧
      ∀ k, (t.reg x).getLsbD k = ((s.reg x).getLsbD k || (s.reg y).getLsbD k)) ∧
    (∃ t, exec (.andVxVy x y) s = .next t ∧ Framed (.andVxVy x y) s t ∧ t.pc = s.pc + 2 ∧
      ∀ k, (t.reg x).getLsbD k = ((s.reg x).getLsbD k && (s.reg y).getLsbD k)) ∧
    (∃ t, exec (.xorVxVy x y) s = .next t ∧ Framed (.xorVxVy x y) s t ∧ t.pc = s.pc + 2 ∧
      ∀ k, (t.reg x).getLsbD k = ((s.reg x).getLsbD k ^^ (s.reg y).getLsbD k))

/-- 8XY4 with `X ≠ F`: the sum modulo 256 in `VX` and its carry in `VF`, `Y = F` adding the old `VF` (R166, R171; that
operands are read before `VF` is written is the spec's decision D1, log 5). -/
def Obligations.AddSetsTheCarry : Prop :=
  ∀ (x y : Reg) (s : State), x ≠ Reg.VF →
    ∃ t, exec (.addVxVy x y) s = .next t ∧ Framed (.addVxVy x y) s t ∧
      (t.reg x).toNat = ((s.reg x).toNat + (s.reg y).toNat) % 256 ∧
      (t.reg Reg.VF).toNat = ((s.reg x).toNat + (s.reg y).toNat) / 256 ∧ t.pc = s.pc + 2

/-- 8XY5 and 8XY7 with `X ≠ F`: the difference modulo 256 in `VX`, and in `VF` 1 exactly when there was no borrow, equal
operands included (R167, R169, R171; D1, log 5). -/
def Obligations.SubtractSetsNotBorrow : Prop :=
  ∀ (x y : Reg) (s : State), x ≠ Reg.VF →
    (∃ t, exec (.subVxVy x y) s = .next t ∧ Framed (.subVxVy x y) s t ∧
      (t.reg x).toNat = ((s.reg x).toNat + 256 - (s.reg y).toNat) % 256 ∧
      t.reg Reg.VF = (if (s.reg y).toNat ≤ (s.reg x).toNat then 1 else 0) ∧ t.pc = s.pc + 2) ∧
    (∃ t, exec (.subnVxVy x y) s = .next t ∧ Framed (.subnVxVy x y) s t ∧
      (t.reg x).toNat = ((s.reg y).toNat + 256 - (s.reg x).toNat) % 256 ∧
      t.reg Reg.VF = (if (s.reg x).toNat ≤ (s.reg y).toNat then 1 else 0) ∧ t.pc = s.pc + 2)

/-- 8XY6 and 8XYE with `X ≠ F`: `VX` halved, and doubled modulo 256, with the expelled bit in `VF`; `PC` advances by 2,
once (R168, R170, R130). -/
def Obligations.ShiftsExpelOneBit : Prop :=
  ∀ (x y : Reg) (s : State), x ≠ Reg.VF →
    (∃ t, exec (.shrVx x y) s = .next t ∧ Framed (.shrVx x y) s t ∧ (t.reg x).toNat = (s.reg x).toNat / 2 ∧
      (t.reg Reg.VF).toNat = (s.reg x).toNat % 2 ∧ t.pc = s.pc + 2) ∧
    (∃ t, exec (.shlVx x y) s = .next t ∧ Framed (.shlVx x y) s t ∧ (t.reg x).toNat = 2 * (s.reg x).toNat % 256 ∧
      (t.reg Reg.VF).toNat = 2 * (s.reg x).toNat / 256 ∧ t.pc = s.pc + 2)

/-- The rows of R172 with `X = F`: the result lands last, so `VF` ends holding the 8-bit result and the flag is lost. The
spec's decisions D1 and D2 (R125, R126; log 5). -/
def Obligations.FlagIsLostWhenVfIsTheDestination : Prop :=
  ∀ (y : Reg) (s : State),
    (∃ t, exec (.addVxVy Reg.VF y) s = .next t ∧ Framed (.addVxVy Reg.VF y) s t ∧ t.pc = s.pc + 2 ∧
      (t.reg Reg.VF).toNat = ((s.reg Reg.VF).toNat + (s.reg y).toNat) % 256) ∧
    (∃ t, exec (.subVxVy Reg.VF y) s = .next t ∧ Framed (.subVxVy Reg.VF y) s t ∧ t.pc = s.pc + 2 ∧
      (t.reg Reg.VF).toNat = ((s.reg Reg.VF).toNat + 256 - (s.reg y).toNat) % 256) ∧
    (∃ t, exec (.subnVxVy Reg.VF y) s = .next t ∧ Framed (.subnVxVy Reg.VF y) s t ∧ t.pc = s.pc + 2 ∧
      (t.reg Reg.VF).toNat = ((s.reg y).toNat + 256 - (s.reg Reg.VF).toNat) % 256) ∧
    (∃ t, exec (.shrVx Reg.VF y) s = .next t ∧ Framed (.shrVx Reg.VF y) s t ∧ t.pc = s.pc + 2 ∧
      (t.reg Reg.VF).toNat = (s.reg Reg.VF).toNat / 2) ∧
    (∃ t, exec (.shlVx Reg.VF y) s = .next t ∧ Framed (.shlVx Reg.VF y) s t ∧ t.pc = s.pc + 2 ∧
      (t.reg Reg.VF).toNat = 2 * (s.reg Reg.VF).toNat % 256)

/-! ### The index register and memory (spec/43_index_memory.md) -/

/-- `I <- zext_16(NNN)` (R190), and `I <- 0x050 + 5 ×` the low nibble of `VX` (R192). The numeral ANNN is presumed (R105,
D17; log 10). -/
def Obligations.IndexIsSetToAddressOrGlyph : Prop :=
  (∀ w : Word, fieldF w = 0xA#4 → decode w = some (.ldINnn (fieldNNN w))) ∧
  (∀ w : Word, w &&& 0xF0FF#16 = 0xF029#16 → decode w = some (.ldFVx (fieldX w))) ∧
  ∀ (nnn : Addr) (x : Reg) (s : State),
    (∃ t, exec (.ldINnn nnn) s = .next t ∧ Framed (.ldINnn nnn) s t ∧ t.i.toNat = nnn.toNat ∧ t.pc = s.pc + 2) ∧
    (∃ t, exec (.ldFVx x) s = .next t ∧ Framed (.ldFVx x) s t ∧
      t.i.toNat = 0x050 + 5 * ((s.reg x).toNat % 16) ∧ t.pc = s.pc + 2)

/-- FX1E: `I <- (I + VX) mod 4096` and `VF` 1 exactly when the exact sum exceeds 0x0FFF, the old `VF` added when `X = F`
(R191; D1, log 5). -/
def Obligations.AddToIndexMasksTo12Bits : Prop :=
  ∀ (x : Reg) (s : State),
    ∃ t, exec (.addIVx x) s = .next t ∧ Framed (.addIVx x) s t ∧
      t.i.toNat = (s.i.toNat + (s.reg x).toNat) % 4096 ∧
      t.reg Reg.VF = (if 0x0FFF < s.i.toNat + (s.reg x).toNat then 1 else 0) ∧ t.pc = s.pc + 2

/-- FX33 with `I + 2 ≤ 0x0FFF`: the hundreds, tens and ones of `VX` at `I`, `I + 1`, `I + 2`, each at most 9, which
together make up `VX` again (R193; the range check comes first by D5, log 12). -/
def Obligations.BcdStoresTheDecimalDigits : Prop :=
  ∀ (x : Reg) (s : State), s.i.toNat + 2 ≤ 0x0FFF →
    ∃ t, exec (.ldBVx x) s = .next t ∧ Framed (.ldBVx x) s t ∧ t.pc = s.pc + 2 ∧
      (t.mem.read s.i.toNat).toNat ≤ 2 ∧ (t.mem.read (s.i.toNat + 1)).toNat ≤ 9 ∧
      (t.mem.read (s.i.toNat + 2)).toNat ≤ 9 ∧
      100 * (t.mem.read s.i.toNat).toNat + 10 * (t.mem.read (s.i.toNat + 1)).toNat +
        (t.mem.read (s.i.toNat + 2)).toNat = (s.reg x).toNat

/-- FX55 with `I + X ≤ 0x0FFF`: the byte at `I + k` is `Vk` for every `k ≤ X`, every other byte as before, `I` unchanged
(R194; D5, log 12, and D11, log 16). -/
def Obligations.BulkStoreWritesTheRegisterBlock : Prop :=
  ∀ (x : Reg) (s : State), s.i.toNat + x.val ≤ 0x0FFF →
    ∃ t, exec (.ldMemVx x) s = .next t ∧ Framed (.ldMemVx x) s t ∧ t.pc = s.pc + 2 ∧ t.i = s.i ∧
      (∀ k : Reg, k ≤ x → t.mem.read (s.i.toNat + k.val) = s.reg k) ∧
      (∀ a, a < s.i.toNat ∨ s.i.toNat + x.val < a → t.mem.read a = s.mem.read a)

/-- FX65 with `I + X ≤ 0x0FFF`: `Vk` is the byte at `I + k` for every `k ≤ X`, the registers above `VX` as before, memory
and `I` unchanged (R195; D5, log 12, and D11, log 16). -/
def Obligations.BulkLoadReadsTheRegisterBlock : Prop :=
  ∀ (x : Reg) (s : State), s.i.toNat + x.val ≤ 0x0FFF →
    ∃ t, exec (.ldVxMem x) s = .next t ∧ Framed (.ldVxMem x) s t ∧ t.pc = s.pc + 2 ∧ t.i = s.i ∧ t.mem = s.mem ∧
      (∀ k : Reg, k ≤ x → t.reg k = s.mem.read (s.i.toNat + k.val)) ∧ (∀ k : Reg, x < k → t.reg k = s.reg k)

/-- FX55 and then, whatever changed in the registers between, FX65 of the same block brings `V0 … VX` back (R194, R195).
That FX65 finds the block where FX55 put it rests on `I` left unchanged, the spec's decision D11 (log 16). -/
def Obligations.BulkLoadUndoesBulkStore : Prop :=
  ∀ (x : Reg) (s t : State) (v : Vector Byte 16), s.i.toNat + x.val ≤ 0x0FFF → exec (.ldMemVx x) s = .next t →
    ∃ u, exec (.ldVxMem x) { t with v := v } = .next u ∧ (∀ k : Reg, k ≤ x → u.reg k = s.reg k) ∧
      (∀ k : Reg, x < k → u.reg k = v[k])

/-! ### The display (spec/44_display.md) -/

/-- 00E0: every pixel off, and `VF` unchanged (R210); `DIRTY` unchanged is the spec's decision D10 (log 18). -/
def Obligations.ClearTurnsEveryPixelOff : Prop :=
  ∀ s : State, ∃ t, exec .cls s = .next t ∧ Framed .cls s t ∧ t.pc = s.pc + 2 ∧ t.dirty = s.dirty ∧
    ∀ (px : Fin 64) (py : Fin 32), pixel t.fb px py = false

/-- THE COLLISION DETECTOR AS A FUNCTION (R212, an inference of the spec from R211 and R213). A draw whose rows lie in
memory toggles exactly the pixels of the sprite's set, wrapped and never clipped, and leaves every other pixel; `VF` ends
1 if one of the set's pixels was on, else 0; `DIRTY` is set. The coordinates are the old registers also when `X` or `Y`
is `F` (D1, log 5); with `N = 0` the set is empty and no address is checked (D23, log 17). -/
def Obligations.DrawTogglesTheSpriteSet : Prop :=
  ∀ (x y : Reg) (n : Nibble) (s : State), n.toNat = 0 ∨ s.i.toNat + n.toNat - 1 ≤ 0x0FFF →
    ∃ t, exec (.drwVxVyN x y n) s = .next t ∧ Framed (.drwVxVyN x y n) s t ∧
      (∀ px py, SpriteCovers s x y n px py → pixel t.fb px py = !pixel s.fb px py) ∧
      (∀ px py, ¬ SpriteCovers s x y n px py → pixel t.fb px py = pixel s.fb px py) ∧
      ((∃ px py, SpriteCovers s x y n px py ∧ pixel s.fb px py = true) → t.reg Reg.VF = 1) ∧
      ((¬ ∃ px py, SpriteCovers s x y n px py ∧ pixel s.fb px py = true) → t.reg Reg.VF = 0) ∧
      t.dirty = true ∧ t.pc = s.pc + 2

/-- Drawing the same sprite twice at the same place restores the framebuffer, and the second draw reports a collision
exactly when the first turned a pixel on (S7 of spec/95_test_vectors.md; an inference from R212). -/
def Obligations.DrawingTwiceRestoresTheFramebuffer : Prop :=
  ∀ (x y : Reg) (n : Nibble) (s t : State), x ≠ Reg.VF → y ≠ Reg.VF →
    n.toNat = 0 ∨ s.i.toNat + n.toNat - 1 ≤ 0x0FFF → exec (.drwVxVyN x y n) s = .next t →
    ∃ u, exec (.drwVxVyN x y n) t = .next u ∧ u.fb = s.fb ∧
      (u.reg Reg.VF = 1 ↔ ∃ px py, SpriteCovers s x y n px py ∧ pixel s.fb px py = false)

/-! ### Keypad, timers, random (spec/45_keypad_timer_random.md) -/

/-- EX9E and EXA1 with `VX ≤ 15`: a skip exactly when the key is pressed, and exactly when it is not (R230, R231). With
`VX > 15` both halt the engine with `AddressOutOfRange`, the spec's decision D8 (R237, log 8). -/
def Obligations.KeySkipsTestTheKey : Prop :=
  ∀ (x : Reg) (s : State),
    (∀ k : Reg, (s.reg x).toNat = k.val →
      (∃ t, exec (.skpVx x) s = .next t ∧ Framed (.skpVx x) s t ∧
        t.pc = (if s.keys.getLsbD k.val = true then s.pc + 4 else s.pc + 2)) ∧
      (∃ t, exec (.sknpVx x) s = .next t ∧ Framed (.sknpVx x) s t ∧
        t.pc = (if s.keys.getLsbD k.val = true then s.pc + 2 else s.pc + 4))) ∧
    (15 < (s.reg x).toNat →
      exec (.skpVx x) s = .next { s with halt := true, cause := .addressOutOfRange } ∧
      exec (.sknpVx x) s = .next { s with halt := true, cause := .addressOutOfRange })

/-- FX0A: with a key pressed, the index of the lowest pressed key goes to `VX` and `PC` advances (the order is the spec's
decision D9, log 9); with none, nothing changes and the same instruction is fetched again (R232, R38). -/
def Obligations.KeyWaitTakesTheLowestKeyOrWaits : Prop :=
  ∀ (x : Reg) (s : State),
    (∀ k : Reg, s.keyPressed k = true → (∀ j : Reg, j < k → s.keyPressed j = false) →
      ∃ t, exec (.ldVxK x) s = .next t ∧ Framed (.ldVxK x) s t ∧ (t.reg x).toNat = k.val ∧ t.pc = s.pc + 2) ∧
    ((∀ k : Reg, s.keyPressed k = false) → exec (.ldVxK x) s = .next s)

/-- FX07, FX15 and FX18 copy `DT` to `VX`, `VX` to `DT`, `VX` to `ST` (R233 to R235; which numeral moves which timer in
which direction is presumed, R105, log 10). -/
def Obligations.TimerCopies : Prop :=
  ∀ (x : Reg) (s : State),
    (∃ t, exec (.ldVxDt x) s = .next t ∧ Framed (.ldVxDt x) s t ∧ t.reg x = s.dt ∧ t.pc = s.pc + 2) ∧
    (∃ t, exec (.ldDtVx x) s = .next t ∧ Framed (.ldDtVx x) s t ∧ t.dt = s.reg x ∧ t.pc = s.pc + 2) ∧
    (∃ t, exec (.ldStVx x) s = .next t ∧ Framed (.ldStVx x) s t ∧ t.st = s.reg x ∧ t.pc = s.pc + 2)

/-- CXNN: `VX` is the next byte of the random input under the mask `NN`, whatever that byte is; a bit of `VX` where `NN`
has a 0 is 0 (R236; the byte is a free value, D15, log 1). -/
def Obligations.RandomIsMaskedByNn : Prop :=
  ∀ (x : Reg) (nn : Byte) (s : State),
    ∃ t, exec (.rndVxNn x nn) s = .next t ∧ Framed (.rndVxNn x nn) s t ∧ t.draws = s.draws + 1 ∧ t.pc = s.pc + 2 ∧
      (∀ k, nn.getLsbD k = false → (t.reg x).getLsbD k = false) ∧
      (∀ k, nn.getLsbD k = true → (t.reg x).getLsbD k = (Config.rnd s.draws).getLsbD k)

/-! ### Reset, load, the host (spec/70_reset_and_hazards.md) -/

/-- The table of R41: every component after reset, for every value of the open parameter `FONT` (R42, D16). The values of
`I`, `DIRTY`, `HALT` and `CAUSE` are the spec's decision D12 (log 11); `State.reset` takes the spec's default `FONT`, which
is presumed (log 2). -/
def Obligations.ResetLeavesTheTableOfValues : Prop :=
  State.reset = State.resetWith defaultFont ∧
  ∀ (font : Font) (s : State), s = State.resetWith font →
    (∀ a, a < 0x050 → s.mem.read a = 0) ∧
    (∀ k : Fin 80, s.mem.read (0x050 + k.val) = font[k]) ∧
    (∀ a, 0x0A0 ≤ a → a < 4096 → s.mem.read a = 0) ∧
    (∀ k : Reg, s.reg k = 0) ∧ s.i = 0 ∧ s.pc = 0x200#16 ∧ s.sp = 0 ∧ (∀ k : Fin 16, s.stack[k] = 0) ∧
    s.dt = 0 ∧ s.st = 0 ∧ (∀ px py, pixel s.fb px py = false) ∧ s.dirty = false ∧ s.keys = 0 ∧
    s.halt = false ∧ s.cause = .none

/-- R292: an image of at most 0xE00 bytes is copied to 0x200 and up, unchanged, and touches nothing else; a longer one
fails with `ProgramTooLarge` and touches nothing. After a load into an engine just reset, the bytes above the image read
0. -/
def Obligations.LoadProgramCopiesTheImageOrFails : Prop :=
  ∀ (s : State) (bytes : List Byte),
    (bytes.length ≤ 0xE00 → ∃ t, s.loadProgram bytes = (t, .ok) ∧ { t with mem := s.mem } = s ∧
      t.mem.font = s.mem.font ∧ (∀ k, (h : k < bytes.length) → t.mem.read (0x200 + k) = bytes[k]) ∧
      (∀ a, a < 0x200 ∨ 0x200 + bytes.length ≤ a → t.mem.read a = s.mem.read a)) ∧
    (0xE00 < bytes.length → s.loadProgram bytes = (s, .programTooLarge)) ∧
    (bytes.length ≤ 0xE00 → ∀ (font : Font) (a : Nat), 0x200 + bytes.length ≤ a → a < 4096 →
      ((State.resetWith font).loadProgram bytes).1.mem.read a = 0)

/-- A program is loaded at most once after a reset, and not after a step: the spec's decision D21 (R293, log 13). A load
that failed may be tried again. A reset keeps what is no state: the engine's `FONT` (R42, log 2) and the random input (log
1). -/
def Obligations.LoadIsAdmittedOnceAfterReset : Prop :=
  ∀ (h h' : Session) (bytes : List Byte) (r : Reply),
    (h.phase ≠ .fresh → h.move (.loadProgram bytes) = .refused .loadNotAdmitted) ∧
    (h.phase = .fresh → bytes.length ≤ 0xE00 → ∃ t, h.move (.loadProgram bytes) = .next (t, .status .ok) ∧
      t.phase = .loaded) ∧
    (h.phase = .fresh → 0xE00 < bytes.length →
      h.move (.loadProgram bytes) = .next (h, .status .programTooLarge)) ∧
    (h.move .step = .next (h', r) → h'.phase = .stepped) ∧
    (∃ t, h.move .reset = .next (t, .done) ∧ t.phase = .fresh ∧
      t.machine = { State.resetWith h.machine.mem.font with draws := h.machine.draws })

/-- The host's other moves (R297; their names are the spec's decision D19, log 13): `setKeys` writes the 16 keys and
`clearDirty` clears `DIRTY`, and nothing else; the three reads change nothing; a step answers its status. -/
def Obligations.HostMovesTouchOnlyTheirOwn : Prop :=
  ∀ (h : Session) (k : BitVec 16),
    h.move (.setKeys k) = .next (⟨{ h.machine with keys := k }, h.phase⟩, .done) ∧
    h.move .clearDirty = .next (⟨{ h.machine with dirty := false }, h.phase⟩, .done) ∧
    h.move .readFramebuffer = .next (h, .framebuffer h.machine.fb) ∧
    h.move .readDirty = .next (h, .dirty h.machine.dirty) ∧
    h.move .readSound = .next (h, .sound h.machine.st) ∧
    ∃ t st, step h.machine = .next t ∧ stepStatus h.machine = some st ∧
      h.move .step = .next (⟨t, .stepped⟩, .status st)

/-- The stable situations (b) and (c) of R307 (an inference of the spec): on a self-jump, and while awaiting a key, a step
of an engine that is not halted changes nothing but the timers, which count down to zero. -/
def Obligations.SelfJumpAndKeyWaitAreStable : Prop :=
  ∀ s : State, s.halt = false → s.SelfJump ∨ s.AwaitingKey →
    step s = .next { s with dt := countDown s.dt, st := countDown s.st } ∧ stepStatus s = some .ok
end

