-- ==== Sys2Proof/Laws/Memory.lean ====
section
/-! SUPPORT. The laws of main memory: what a read gives after a write (R69), and that every memory operation keeps the
canonical form. The read laws hold of every memory, canonical or not. -/

namespace Sys2Proof.Machine

/-! ### Lists of cells -/

theorem lookupCell_insertCell (l : List Host.Cell) (a : Nat) (b : Byte) (c : Nat) :
    lookupCell (insertCell l a b) c = if c = a then some b else lookupCell l c := by
  induction l with
  | nil => simp only [insertCell, lookupCell]; grind
  | cons p rest ih => obtain ⟨a', b'⟩ := p; simp only [insertCell]; grind [lookupCell]

theorem lookupCell_eraseCell (l : List Host.Cell) (a c : Nat) :
    lookupCell (eraseCell l a) c = if c = a then none else lookupCell l c := by
  induction l with
  | nil => simp [eraseCell, lookupCell]
  | cons p rest ih => obtain ⟨a', b'⟩ := p; simp only [eraseCell]; grind [lookupCell]

theorem mem_insertCell {l : List Host.Cell} {a : Nat} {b : Byte} {c : Host.Cell}
    (h : c ∈ insertCell l a b) : c = (a, b) ∨ c ∈ l := by
  induction l with
  | nil => simpa [insertCell] using h
  | cons p rest ih => obtain ⟨a', b'⟩ := p; simp only [insertCell] at h; grind

theorem mem_eraseCell {l : List Host.Cell} {a : Nat} {c : Host.Cell} (h : c ∈ eraseCell l a) : c ∈ l := by
  induction l with
  | nil => simp [eraseCell] at h
  | cons p rest ih => obtain ⟨a', b'⟩ := p; simp only [eraseCell] at h; grind

theorem sorted_insertCell {l : List Host.Cell} (a : Nat) (b : Byte)
    (h : l.Pairwise (fun p q => p.1 < q.1)) : (insertCell l a b).Pairwise (fun p q => p.1 < q.1) := by
  induction l with
  | nil => simp [insertCell]
  | cons p rest ih =>
    obtain ⟨a', b'⟩ := p
    rw [List.pairwise_cons] at h
    simp only [insertCell]
    split
    · rename_i ha
      refine List.pairwise_cons.2 ⟨fun c hc => ?_, List.pairwise_cons.2 h⟩
      rcases List.mem_cons.1 hc with rfl | hc
      · exact ha
      · exact Nat.lt_trans ha (h.1 c hc)
    · split
      · rename_i _ ha
        subst ha
        exact List.pairwise_cons.2 h
      · refine List.pairwise_cons.2 ⟨fun c hc => ?_, ih h.2⟩
        rcases mem_insertCell hc with rfl | hc
        · simp only; omega
        · exact h.1 c hc

theorem sorted_eraseCell {l : List Host.Cell} (a : Nat)
    (h : l.Pairwise (fun p q => p.1 < q.1)) : (eraseCell l a).Pairwise (fun p q => p.1 < q.1) := by
  induction l with
  | nil => simp [eraseCell]
  | cons p rest ih =>
    obtain ⟨a', b'⟩ := p
    rw [List.pairwise_cons] at h
    simp only [eraseCell]
    split
    · exact ih h.2
    · exact List.pairwise_cons.2 ⟨fun c hc => h.1 c (mem_eraseCell hc), ih h.2⟩

theorem lookupCell_of_forall_ne {l : List Host.Cell} {a : Nat} (h : ∀ c ∈ l, c.1 ≠ a) : lookupCell l a = none := by
  induction l with
  | nil => rfl
  | cons p rest ih =>
    rw [lookupCell, if_neg (h p List.mem_cons_self), ih fun c hc => h c (List.mem_cons_of_mem p hc)]

theorem lookupCell_mem {l : List Host.Cell} {a : Nat} {b : Byte} (h : lookupCell l a = some b) : (a, b) ∈ l := by
  induction l with
  | nil => simp [lookupCell] at h
  | cons p rest ih => obtain ⟨a', b'⟩ := p; simp only [lookupCell] at h; grind

/-! ### Reading after writing -/

namespace Memory

/-- A read after a write inside memory: the written byte at its address, every other address as before. -/
theorem read_write {m : Memory} {a : Nat} (ha : a < 4096) (b : Byte) (c : Nat) :
    (m.write a b).read c = if c = a then b else m.read c := by
  simp only [write, read, Config.memSize, if_pos ha]
  split
  · rename_i hb
    simp only [lookupCell_eraseCell]
    split
    · rename_i hc; simp [hb, hc]
    · rfl
  · simp only [lookupCell_insertCell]
    split <;> rfl

/-- A write outside memory stores nothing. -/
theorem write_outside {m : Memory} {a : Nat} (ha : ¬ a < 4096) (b : Byte) : m.write a b = m := by
  simp [write, ha]

/-- A read after a block of writes inside memory. -/
theorem read_writeBytes (bs : List Byte) (m : Memory) (a : Nat) (h : a + bs.length ≤ 4096) (c : Nat) :
    (m.writeBytes a bs).read c = if a ≤ c ∧ c < a + bs.length then bs.getD (c - a) 0x00#8 else m.read c := by
  induction bs generalizing m a with
  | nil => simp only [writeBytes, List.length_nil]; rw [if_neg (by omega)]
  | cons b rest ih =>
    simp only [List.length_cons] at h ⊢
    rw [writeBytes, ih (m.write a b) (a + 1) (by omega), read_write (by omega)]
    by_cases h1 : c = a
    · subst h1
      rw [if_neg (by omega), if_pos rfl, if_pos (by omega)]
      simp
    · rw [if_neg h1]
      by_cases h2 : a + 1 ≤ c ∧ c < a + 1 + rest.length
      · rw [if_pos h2, if_pos (by omega), show c - a = (c - (a + 1)) + 1 by omega, List.getD_cons_succ]
      · rw [if_neg h2, if_neg (by omega)]

/-! ### The canonical form -/

theorem wf_write {m : Memory} (h : m.wf) (a : Nat) (b : Byte) : (m.write a b).wf := by
  unfold write
  split
  · rename_i ha
    split
    · exact ⟨sorted_eraseCell a h.1, fun c hc => h.2 c (mem_eraseCell hc)⟩
    · rename_i hb
      refine ⟨sorted_insertCell a b h.1, fun c hc => ?_⟩
      rcases mem_insertCell hc with rfl | hc
      · exact ⟨ha, hb⟩
      · exact h.2 c hc
  · exact h

theorem wf_writeBytes (bs : List Byte) {m : Memory} (h : m.wf) (a : Nat) : (m.writeBytes a bs).wf := by
  induction bs generalizing m a with
  | nil => exact h
  | cons b rest ih => exact ih (wf_write h a b) (a + 1)

theorem wf_empty (font : Font) : (Memory.mk font []).wf := ⟨List.Pairwise.nil, fun _ hc => absurd hc List.not_mem_nil⟩

/-! ### The parameter `FONT` -/

/-- No write changes the engine's `FONT` (R42). -/
@[simp] theorem font_write (m : Memory) (a : Nat) (b : Byte) : (m.write a b).font = m.font := by
  unfold write; split
  · split <;> rfl
  · rfl

@[simp] theorem font_writeBytes (bs : List Byte) (m : Memory) (a : Nat) : (m.writeBytes a bs).font = m.font := by
  induction bs generalizing m a with
  | nil => rfl
  | cons b rest ih => rw [writeBytes, ih, font_write]

/-- The reset content of memory, read where the font table stands (R65). -/
theorem read_empty_font (font : Font) (k : Fin 80) : (Memory.mk font []).read (0x050 + k.val) = font[k] := by
  have hk : k.val < 80 := k.isLt
  show blankByte font (0x050 + k.val) = _
  unfold blankByte
  rw [if_pos (by simp only [Config.fontBase, Config.fontLen]; omega)]
  simp [fontByte, Vector.getD]

/-- The reset content of memory, read anywhere else (R65). -/
theorem read_empty_of_not_font (font : Font) (a : Nat) (h : a < 0x050 ∨ 0x0A0 ≤ a) :
    (Memory.mk font []).read a = 0x00#8 :=
  if_neg (by simp only [Config.fontBase, Config.fontLen]; omega)

end Memory

/-! ### The register block -/

@[simp] theorem registerBytes_length (v : Vector Byte 16) (n : Nat) : (registerBytes v n).length = n := by
  induction n with
  | zero => rfl
  | succ n ih => simp [registerBytes, ih]

theorem registerBytes_getD (v : Vector Byte 16) (n k : Nat) (h : k < n) :
    (registerBytes v n).getD k 0x00#8 = v.getD k 0x00#8 := by
  induction n with
  | zero => omega
  | succ n ih =>
    simp only [registerBytes, List.getD_eq_getElem?_getD]
    by_cases hk : k < n
    · rw [List.getElem?_append_left (by simpa using hk), ← List.getD_eq_getElem?_getD, ih hk]
    · have : k = n := by omega
      subst this
      rw [List.getElem?_append_right (by simp)]
      simp

theorem loadRegisters_getElem (m : Memory) (base n : Nat) (v : Vector Byte 16) (k : Reg) :
    (loadRegisters m base n v)[k] = if k.val < n then m.read (base + k.val) else v[k] := by
  induction n with
  | zero => simp [loadRegisters]
  | succ n ih =>
    simp only [loadRegisters, Fin.getElem_fin, Vector.getElem_setIfInBounds] at ih ⊢
    split
    · rename_i h; rw [if_pos (by omega), h]
    · rw [ih]; split <;> split <;> first | rfl | omega

@[simp] theorem decimalDigits_length (b : Byte) : (decimalDigits b).length = 3 := rfl

end Sys2Proof.Machine
end

