-- ==== Sys2Proof/Laws/State.lean ====
section
/-! SUPPORT. One lemma for every field of State under every update, true by rfl and tagged @[simp], so that no later
proof unfolds a record update; then the register reads under the updates. -/

namespace Sys2Proof.Machine.State

variable (s : State)

/-! ### setReg -/

@[simp] theorem setReg_mem (k : Reg) (b : Byte) : (s.setReg k b).mem = s.mem := rfl
@[simp] theorem setReg_v (k : Reg) (b : Byte) : (s.setReg k b).v = s.v.set k b := rfl
@[simp] theorem setReg_i (k : Reg) (b : Byte) : (s.setReg k b).i = s.i := rfl
@[simp] theorem setReg_pc (k : Reg) (b : Byte) : (s.setReg k b).pc = s.pc := rfl
@[simp] theorem setReg_stack (k : Reg) (b : Byte) : (s.setReg k b).stack = s.stack := rfl
@[simp] theorem setReg_sp (k : Reg) (b : Byte) : (s.setReg k b).sp = s.sp := rfl
@[simp] theorem setReg_dt (k : Reg) (b : Byte) : (s.setReg k b).dt = s.dt := rfl
@[simp] theorem setReg_st (k : Reg) (b : Byte) : (s.setReg k b).st = s.st := rfl
@[simp] theorem setReg_fb (k : Reg) (b : Byte) : (s.setReg k b).fb = s.fb := rfl
@[simp] theorem setReg_dirty (k : Reg) (b : Byte) : (s.setReg k b).dirty = s.dirty := rfl
@[simp] theorem setReg_keys (k : Reg) (b : Byte) : (s.setReg k b).keys = s.keys := rfl
@[simp] theorem setReg_halt (k : Reg) (b : Byte) : (s.setReg k b).halt = s.halt := rfl
@[simp] theorem setReg_cause (k : Reg) (b : Byte) : (s.setReg k b).cause = s.cause := rfl
@[simp] theorem setReg_draws (k : Reg) (b : Byte) : (s.setReg k b).draws = s.draws := rfl

/-! ### setFlag -/

@[simp] theorem setFlag_mem (c : Bool) : (s.setFlag c).mem = s.mem := rfl
@[simp] theorem setFlag_v (c : Bool) : (s.setFlag c).v = s.v.set Reg.VF (flagByte c) := rfl
@[simp] theorem setFlag_i (c : Bool) : (s.setFlag c).i = s.i := rfl
@[simp] theorem setFlag_pc (c : Bool) : (s.setFlag c).pc = s.pc := rfl
@[simp] theorem setFlag_stack (c : Bool) : (s.setFlag c).stack = s.stack := rfl
@[simp] theorem setFlag_sp (c : Bool) : (s.setFlag c).sp = s.sp := rfl
@[simp] theorem setFlag_dt (c : Bool) : (s.setFlag c).dt = s.dt := rfl
@[simp] theorem setFlag_st (c : Bool) : (s.setFlag c).st = s.st := rfl
@[simp] theorem setFlag_fb (c : Bool) : (s.setFlag c).fb = s.fb := rfl
@[simp] theorem setFlag_dirty (c : Bool) : (s.setFlag c).dirty = s.dirty := rfl
@[simp] theorem setFlag_keys (c : Bool) : (s.setFlag c).keys = s.keys := rfl
@[simp] theorem setFlag_halt (c : Bool) : (s.setFlag c).halt = s.halt := rfl
@[simp] theorem setFlag_cause (c : Bool) : (s.setFlag c).cause = s.cause := rfl
@[simp] theorem setFlag_draws (c : Bool) : (s.setFlag c).draws = s.draws := rfl

/-! ### setIndex -/

@[simp] theorem setIndex_mem (a : Word) : (s.setIndex a).mem = s.mem := rfl
@[simp] theorem setIndex_v (a : Word) : (s.setIndex a).v = s.v := rfl
@[simp] theorem setIndex_i (a : Word) : (s.setIndex a).i = a := rfl
@[simp] theorem setIndex_pc (a : Word) : (s.setIndex a).pc = s.pc := rfl
@[simp] theorem setIndex_stack (a : Word) : (s.setIndex a).stack = s.stack := rfl
@[simp] theorem setIndex_sp (a : Word) : (s.setIndex a).sp = s.sp := rfl
@[simp] theorem setIndex_dt (a : Word) : (s.setIndex a).dt = s.dt := rfl
@[simp] theorem setIndex_st (a : Word) : (s.setIndex a).st = s.st := rfl
@[simp] theorem setIndex_fb (a : Word) : (s.setIndex a).fb = s.fb := rfl
@[simp] theorem setIndex_dirty (a : Word) : (s.setIndex a).dirty = s.dirty := rfl
@[simp] theorem setIndex_keys (a : Word) : (s.setIndex a).keys = s.keys := rfl
@[simp] theorem setIndex_halt (a : Word) : (s.setIndex a).halt = s.halt := rfl
@[simp] theorem setIndex_cause (a : Word) : (s.setIndex a).cause = s.cause := rfl
@[simp] theorem setIndex_draws (a : Word) : (s.setIndex a).draws = s.draws := rfl

/-! ### setPc -/

@[simp] theorem setPc_mem (a : Word) : (s.setPc a).mem = s.mem := rfl
@[simp] theorem setPc_v (a : Word) : (s.setPc a).v = s.v := rfl
@[simp] theorem setPc_i (a : Word) : (s.setPc a).i = s.i := rfl
@[simp] theorem setPc_pc (a : Word) : (s.setPc a).pc = a := rfl
@[simp] theorem setPc_stack (a : Word) : (s.setPc a).stack = s.stack := rfl
@[simp] theorem setPc_sp (a : Word) : (s.setPc a).sp = s.sp := rfl
@[simp] theorem setPc_dt (a : Word) : (s.setPc a).dt = s.dt := rfl
@[simp] theorem setPc_st (a : Word) : (s.setPc a).st = s.st := rfl
@[simp] theorem setPc_fb (a : Word) : (s.setPc a).fb = s.fb := rfl
@[simp] theorem setPc_dirty (a : Word) : (s.setPc a).dirty = s.dirty := rfl
@[simp] theorem setPc_keys (a : Word) : (s.setPc a).keys = s.keys := rfl
@[simp] theorem setPc_halt (a : Word) : (s.setPc a).halt = s.halt := rfl
@[simp] theorem setPc_cause (a : Word) : (s.setPc a).cause = s.cause := rfl
@[simp] theorem setPc_draws (a : Word) : (s.setPc a).draws = s.draws := rfl

/-! ### advance -/

@[simp] theorem advance_mem : (s.advance).mem = s.mem := rfl
@[simp] theorem advance_v : (s.advance).v = s.v := rfl
@[simp] theorem advance_i : (s.advance).i = s.i := rfl
@[simp] theorem advance_pc : (s.advance).pc = s.pc + 2 := rfl
@[simp] theorem advance_stack : (s.advance).stack = s.stack := rfl
@[simp] theorem advance_sp : (s.advance).sp = s.sp := rfl
@[simp] theorem advance_dt : (s.advance).dt = s.dt := rfl
@[simp] theorem advance_st : (s.advance).st = s.st := rfl
@[simp] theorem advance_fb : (s.advance).fb = s.fb := rfl
@[simp] theorem advance_dirty : (s.advance).dirty = s.dirty := rfl
@[simp] theorem advance_keys : (s.advance).keys = s.keys := rfl
@[simp] theorem advance_halt : (s.advance).halt = s.halt := rfl
@[simp] theorem advance_cause : (s.advance).cause = s.cause := rfl
@[simp] theorem advance_draws : (s.advance).draws = s.draws := rfl

/-! ### setDt -/

@[simp] theorem setDt_mem (b : Byte) : (s.setDt b).mem = s.mem := rfl
@[simp] theorem setDt_v (b : Byte) : (s.setDt b).v = s.v := rfl
@[simp] theorem setDt_i (b : Byte) : (s.setDt b).i = s.i := rfl
@[simp] theorem setDt_pc (b : Byte) : (s.setDt b).pc = s.pc := rfl
@[simp] theorem setDt_stack (b : Byte) : (s.setDt b).stack = s.stack := rfl
@[simp] theorem setDt_sp (b : Byte) : (s.setDt b).sp = s.sp := rfl
@[simp] theorem setDt_dt (b : Byte) : (s.setDt b).dt = b := rfl
@[simp] theorem setDt_st (b : Byte) : (s.setDt b).st = s.st := rfl
@[simp] theorem setDt_fb (b : Byte) : (s.setDt b).fb = s.fb := rfl
@[simp] theorem setDt_dirty (b : Byte) : (s.setDt b).dirty = s.dirty := rfl
@[simp] theorem setDt_keys (b : Byte) : (s.setDt b).keys = s.keys := rfl
@[simp] theorem setDt_halt (b : Byte) : (s.setDt b).halt = s.halt := rfl
@[simp] theorem setDt_cause (b : Byte) : (s.setDt b).cause = s.cause := rfl
@[simp] theorem setDt_draws (b : Byte) : (s.setDt b).draws = s.draws := rfl

/-! ### setSt -/

@[simp] theorem setSt_mem (b : Byte) : (s.setSt b).mem = s.mem := rfl
@[simp] theorem setSt_v (b : Byte) : (s.setSt b).v = s.v := rfl
@[simp] theorem setSt_i (b : Byte) : (s.setSt b).i = s.i := rfl
@[simp] theorem setSt_pc (b : Byte) : (s.setSt b).pc = s.pc := rfl
@[simp] theorem setSt_stack (b : Byte) : (s.setSt b).stack = s.stack := rfl
@[simp] theorem setSt_sp (b : Byte) : (s.setSt b).sp = s.sp := rfl
@[simp] theorem setSt_dt (b : Byte) : (s.setSt b).dt = s.dt := rfl
@[simp] theorem setSt_st (b : Byte) : (s.setSt b).st = b := rfl
@[simp] theorem setSt_fb (b : Byte) : (s.setSt b).fb = s.fb := rfl
@[simp] theorem setSt_dirty (b : Byte) : (s.setSt b).dirty = s.dirty := rfl
@[simp] theorem setSt_keys (b : Byte) : (s.setSt b).keys = s.keys := rfl
@[simp] theorem setSt_halt (b : Byte) : (s.setSt b).halt = s.halt := rfl
@[simp] theorem setSt_cause (b : Byte) : (s.setSt b).cause = s.cause := rfl
@[simp] theorem setSt_draws (b : Byte) : (s.setSt b).draws = s.draws := rfl

/-! ### setMem -/

@[simp] theorem setMem_mem (m : Memory) : (s.setMem m).mem = m := rfl
@[simp] theorem setMem_v (m : Memory) : (s.setMem m).v = s.v := rfl
@[simp] theorem setMem_i (m : Memory) : (s.setMem m).i = s.i := rfl
@[simp] theorem setMem_pc (m : Memory) : (s.setMem m).pc = s.pc := rfl
@[simp] theorem setMem_stack (m : Memory) : (s.setMem m).stack = s.stack := rfl
@[simp] theorem setMem_sp (m : Memory) : (s.setMem m).sp = s.sp := rfl
@[simp] theorem setMem_dt (m : Memory) : (s.setMem m).dt = s.dt := rfl
@[simp] theorem setMem_st (m : Memory) : (s.setMem m).st = s.st := rfl
@[simp] theorem setMem_fb (m : Memory) : (s.setMem m).fb = s.fb := rfl
@[simp] theorem setMem_dirty (m : Memory) : (s.setMem m).dirty = s.dirty := rfl
@[simp] theorem setMem_keys (m : Memory) : (s.setMem m).keys = s.keys := rfl
@[simp] theorem setMem_halt (m : Memory) : (s.setMem m).halt = s.halt := rfl
@[simp] theorem setMem_cause (m : Memory) : (s.setMem m).cause = s.cause := rfl
@[simp] theorem setMem_draws (m : Memory) : (s.setMem m).draws = s.draws := rfl

/-! ### nextDraw -/

@[simp] theorem nextDraw_mem : (s.nextDraw).mem = s.mem := rfl
@[simp] theorem nextDraw_v : (s.nextDraw).v = s.v := rfl
@[simp] theorem nextDraw_i : (s.nextDraw).i = s.i := rfl
@[simp] theorem nextDraw_pc : (s.nextDraw).pc = s.pc := rfl
@[simp] theorem nextDraw_stack : (s.nextDraw).stack = s.stack := rfl
@[simp] theorem nextDraw_sp : (s.nextDraw).sp = s.sp := rfl
@[simp] theorem nextDraw_dt : (s.nextDraw).dt = s.dt := rfl
@[simp] theorem nextDraw_st : (s.nextDraw).st = s.st := rfl
@[simp] theorem nextDraw_fb : (s.nextDraw).fb = s.fb := rfl
@[simp] theorem nextDraw_dirty : (s.nextDraw).dirty = s.dirty := rfl
@[simp] theorem nextDraw_keys : (s.nextDraw).keys = s.keys := rfl
@[simp] theorem nextDraw_halt : (s.nextDraw).halt = s.halt := rfl
@[simp] theorem nextDraw_cause : (s.nextDraw).cause = s.cause := rfl
@[simp] theorem nextDraw_draws : (s.nextDraw).draws = s.draws + 1 := rfl

/-! ### raise -/

@[simp] theorem raise_mem (c : Cause) : (s.raise c).mem = s.mem := rfl
@[simp] theorem raise_v (c : Cause) : (s.raise c).v = s.v := rfl
@[simp] theorem raise_i (c : Cause) : (s.raise c).i = s.i := rfl
@[simp] theorem raise_pc (c : Cause) : (s.raise c).pc = s.pc := rfl
@[simp] theorem raise_stack (c : Cause) : (s.raise c).stack = s.stack := rfl
@[simp] theorem raise_sp (c : Cause) : (s.raise c).sp = s.sp := rfl
@[simp] theorem raise_dt (c : Cause) : (s.raise c).dt = s.dt := rfl
@[simp] theorem raise_st (c : Cause) : (s.raise c).st = s.st := rfl
@[simp] theorem raise_fb (c : Cause) : (s.raise c).fb = s.fb := rfl
@[simp] theorem raise_dirty (c : Cause) : (s.raise c).dirty = s.dirty := rfl
@[simp] theorem raise_keys (c : Cause) : (s.raise c).keys = s.keys := rfl
@[simp] theorem raise_halt (c : Cause) : (s.raise c).halt = true := rfl
@[simp] theorem raise_cause (c : Cause) : (s.raise c).cause = c := rfl
@[simp] theorem raise_draws (c : Cause) : (s.raise c).draws = s.draws := rfl

/-! ### setFb -/

@[simp] theorem setFb_mem (fb : Framebuffer) : (s.setFb fb).mem = s.mem := rfl
@[simp] theorem setFb_v (fb : Framebuffer) : (s.setFb fb).v = s.v := rfl
@[simp] theorem setFb_i (fb : Framebuffer) : (s.setFb fb).i = s.i := rfl
@[simp] theorem setFb_pc (fb : Framebuffer) : (s.setFb fb).pc = s.pc := rfl
@[simp] theorem setFb_stack (fb : Framebuffer) : (s.setFb fb).stack = s.stack := rfl
@[simp] theorem setFb_sp (fb : Framebuffer) : (s.setFb fb).sp = s.sp := rfl
@[simp] theorem setFb_dt (fb : Framebuffer) : (s.setFb fb).dt = s.dt := rfl
@[simp] theorem setFb_st (fb : Framebuffer) : (s.setFb fb).st = s.st := rfl
@[simp] theorem setFb_fb (fb : Framebuffer) : (s.setFb fb).fb = fb := rfl
@[simp] theorem setFb_dirty (fb : Framebuffer) : (s.setFb fb).dirty = s.dirty := rfl
@[simp] theorem setFb_keys (fb : Framebuffer) : (s.setFb fb).keys = s.keys := rfl
@[simp] theorem setFb_halt (fb : Framebuffer) : (s.setFb fb).halt = s.halt := rfl
@[simp] theorem setFb_cause (fb : Framebuffer) : (s.setFb fb).cause = s.cause := rfl
@[simp] theorem setFb_draws (fb : Framebuffer) : (s.setFb fb).draws = s.draws := rfl

/-! ### markDirty -/

@[simp] theorem markDirty_mem : (s.markDirty).mem = s.mem := rfl
@[simp] theorem markDirty_v : (s.markDirty).v = s.v := rfl
@[simp] theorem markDirty_i : (s.markDirty).i = s.i := rfl
@[simp] theorem markDirty_pc : (s.markDirty).pc = s.pc := rfl
@[simp] theorem markDirty_stack : (s.markDirty).stack = s.stack := rfl
@[simp] theorem markDirty_sp : (s.markDirty).sp = s.sp := rfl
@[simp] theorem markDirty_dt : (s.markDirty).dt = s.dt := rfl
@[simp] theorem markDirty_st : (s.markDirty).st = s.st := rfl
@[simp] theorem markDirty_fb : (s.markDirty).fb = s.fb := rfl
@[simp] theorem markDirty_dirty : (s.markDirty).dirty = true := rfl
@[simp] theorem markDirty_keys : (s.markDirty).keys = s.keys := rfl
@[simp] theorem markDirty_halt : (s.markDirty).halt = s.halt := rfl
@[simp] theorem markDirty_cause : (s.markDirty).cause = s.cause := rfl
@[simp] theorem markDirty_draws : (s.markDirty).draws = s.draws := rfl

/-! ### setRegs -/

@[simp] theorem setRegs_mem (v : Vector Byte 16) : (s.setRegs v).mem = s.mem := rfl
@[simp] theorem setRegs_v (v : Vector Byte 16) : (s.setRegs v).v = v := rfl
@[simp] theorem setRegs_i (v : Vector Byte 16) : (s.setRegs v).i = s.i := rfl
@[simp] theorem setRegs_pc (v : Vector Byte 16) : (s.setRegs v).pc = s.pc := rfl
@[simp] theorem setRegs_stack (v : Vector Byte 16) : (s.setRegs v).stack = s.stack := rfl
@[simp] theorem setRegs_sp (v : Vector Byte 16) : (s.setRegs v).sp = s.sp := rfl
@[simp] theorem setRegs_dt (v : Vector Byte 16) : (s.setRegs v).dt = s.dt := rfl
@[simp] theorem setRegs_st (v : Vector Byte 16) : (s.setRegs v).st = s.st := rfl
@[simp] theorem setRegs_fb (v : Vector Byte 16) : (s.setRegs v).fb = s.fb := rfl
@[simp] theorem setRegs_dirty (v : Vector Byte 16) : (s.setRegs v).dirty = s.dirty := rfl
@[simp] theorem setRegs_keys (v : Vector Byte 16) : (s.setRegs v).keys = s.keys := rfl
@[simp] theorem setRegs_halt (v : Vector Byte 16) : (s.setRegs v).halt = s.halt := rfl
@[simp] theorem setRegs_cause (v : Vector Byte 16) : (s.setRegs v).cause = s.cause := rfl
@[simp] theorem setRegs_draws (v : Vector Byte 16) : (s.setRegs v).draws = s.draws := rfl

/-! ### tick -/

@[simp] theorem tick_mem : (s.tick).mem = s.mem := rfl
@[simp] theorem tick_v : (s.tick).v = s.v := rfl
@[simp] theorem tick_i : (s.tick).i = s.i := rfl
@[simp] theorem tick_pc : (s.tick).pc = s.pc := rfl
@[simp] theorem tick_stack : (s.tick).stack = s.stack := rfl
@[simp] theorem tick_sp : (s.tick).sp = s.sp := rfl
@[simp] theorem tick_dt : (s.tick).dt = countDown s.dt := rfl
@[simp] theorem tick_st : (s.tick).st = countDown s.st := rfl
@[simp] theorem tick_fb : (s.tick).fb = s.fb := rfl
@[simp] theorem tick_dirty : (s.tick).dirty = s.dirty := rfl
@[simp] theorem tick_keys : (s.tick).keys = s.keys := rfl
@[simp] theorem tick_halt : (s.tick).halt = s.halt := rfl
@[simp] theorem tick_cause : (s.tick).cause = s.cause := rfl
@[simp] theorem tick_draws : (s.tick).draws = s.draws := rfl

/-! ### skipUnknown -/

@[simp] theorem skipUnknown_mem : (s.skipUnknown).mem = s.mem := rfl
@[simp] theorem skipUnknown_v : (s.skipUnknown).v = s.v := rfl
@[simp] theorem skipUnknown_i : (s.skipUnknown).i = s.i := rfl
@[simp] theorem skipUnknown_pc : (s.skipUnknown).pc = s.pc + 2 := rfl
@[simp] theorem skipUnknown_stack : (s.skipUnknown).stack = s.stack := rfl
@[simp] theorem skipUnknown_sp : (s.skipUnknown).sp = s.sp := rfl
@[simp] theorem skipUnknown_dt : (s.skipUnknown).dt = s.dt := rfl
@[simp] theorem skipUnknown_st : (s.skipUnknown).st = s.st := rfl
@[simp] theorem skipUnknown_fb : (s.skipUnknown).fb = s.fb := rfl
@[simp] theorem skipUnknown_dirty : (s.skipUnknown).dirty = s.dirty := rfl
@[simp] theorem skipUnknown_keys : (s.skipUnknown).keys = s.keys := rfl
@[simp] theorem skipUnknown_halt : (s.skipUnknown).halt = s.halt := rfl
@[simp] theorem skipUnknown_cause : (s.skipUnknown).cause = s.cause := rfl
@[simp] theorem skipUnknown_draws : (s.skipUnknown).draws = s.draws := rfl

/-! ### setKeys -/

@[simp] theorem setKeys_mem (keys : BitVec 16) : (s.setKeys keys).mem = s.mem := rfl
@[simp] theorem setKeys_v (keys : BitVec 16) : (s.setKeys keys).v = s.v := rfl
@[simp] theorem setKeys_i (keys : BitVec 16) : (s.setKeys keys).i = s.i := rfl
@[simp] theorem setKeys_pc (keys : BitVec 16) : (s.setKeys keys).pc = s.pc := rfl
@[simp] theorem setKeys_stack (keys : BitVec 16) : (s.setKeys keys).stack = s.stack := rfl
@[simp] theorem setKeys_sp (keys : BitVec 16) : (s.setKeys keys).sp = s.sp := rfl
@[simp] theorem setKeys_dt (keys : BitVec 16) : (s.setKeys keys).dt = s.dt := rfl
@[simp] theorem setKeys_st (keys : BitVec 16) : (s.setKeys keys).st = s.st := rfl
@[simp] theorem setKeys_fb (keys : BitVec 16) : (s.setKeys keys).fb = s.fb := rfl
@[simp] theorem setKeys_dirty (keys : BitVec 16) : (s.setKeys keys).dirty = s.dirty := rfl
@[simp] theorem setKeys_keys (keys : BitVec 16) : (s.setKeys keys).keys = keys := rfl
@[simp] theorem setKeys_halt (keys : BitVec 16) : (s.setKeys keys).halt = s.halt := rfl
@[simp] theorem setKeys_cause (keys : BitVec 16) : (s.setKeys keys).cause = s.cause := rfl
@[simp] theorem setKeys_draws (keys : BitVec 16) : (s.setKeys keys).draws = s.draws := rfl

/-! ### clearDirty -/

@[simp] theorem clearDirty_mem : (s.clearDirty).mem = s.mem := rfl
@[simp] theorem clearDirty_v : (s.clearDirty).v = s.v := rfl
@[simp] theorem clearDirty_i : (s.clearDirty).i = s.i := rfl
@[simp] theorem clearDirty_pc : (s.clearDirty).pc = s.pc := rfl
@[simp] theorem clearDirty_stack : (s.clearDirty).stack = s.stack := rfl
@[simp] theorem clearDirty_sp : (s.clearDirty).sp = s.sp := rfl
@[simp] theorem clearDirty_dt : (s.clearDirty).dt = s.dt := rfl
@[simp] theorem clearDirty_st : (s.clearDirty).st = s.st := rfl
@[simp] theorem clearDirty_fb : (s.clearDirty).fb = s.fb := rfl
@[simp] theorem clearDirty_dirty : (s.clearDirty).dirty = false := rfl
@[simp] theorem clearDirty_keys : (s.clearDirty).keys = s.keys := rfl
@[simp] theorem clearDirty_halt : (s.clearDirty).halt = s.halt := rfl
@[simp] theorem clearDirty_cause : (s.clearDirty).cause = s.cause := rfl
@[simp] theorem clearDirty_draws : (s.clearDirty).draws = s.draws := rfl

/-! ### Register reads -/

@[simp] theorem reg_setReg (k : Reg) (b : Byte) (j : Reg) : (s.setReg k b).reg j = if j = k then b else s.reg j := by
  simp only [reg, setReg_v, Fin.getElem_fin, Vector.getElem_set, Fin.ext_iff]
  split <;> split <;> first | rfl | omega

@[simp] theorem reg_setFlag (c : Bool) (j : Reg) :
    (s.setFlag c).reg j = if j = Reg.VF then flagByte c else s.reg j := reg_setReg s Reg.VF (flagByte c) j

@[simp] theorem reg_setIndex (a : Word) (j : Reg) : (s.setIndex a).reg j = s.reg j := rfl
@[simp] theorem reg_setPc (a : Word) (j : Reg) : (s.setPc a).reg j = s.reg j := rfl
@[simp] theorem reg_advance (j : Reg) : (s.advance).reg j = s.reg j := rfl
@[simp] theorem reg_setDt (b : Byte) (j : Reg) : (s.setDt b).reg j = s.reg j := rfl
@[simp] theorem reg_setSt (b : Byte) (j : Reg) : (s.setSt b).reg j = s.reg j := rfl
@[simp] theorem reg_setMem (m : Memory) (j : Reg) : (s.setMem m).reg j = s.reg j := rfl
@[simp] theorem reg_nextDraw (j : Reg) : (s.nextDraw).reg j = s.reg j := rfl
@[simp] theorem reg_raise (c : Cause) (j : Reg) : (s.raise c).reg j = s.reg j := rfl
@[simp] theorem reg_setFb (fb : Framebuffer) (j : Reg) : (s.setFb fb).reg j = s.reg j := rfl
@[simp] theorem reg_markDirty (j : Reg) : (s.markDirty).reg j = s.reg j := rfl
@[simp] theorem reg_tick (j : Reg) : (s.tick).reg j = s.reg j := rfl
@[simp] theorem reg_skipUnknown (j : Reg) : (s.skipUnknown).reg j = s.reg j := rfl
@[simp] theorem reg_setKeys (keys : BitVec 16) (j : Reg) : (s.setKeys keys).reg j = s.reg j := rfl
@[simp] theorem reg_clearDirty (j : Reg) : (s.clearDirty).reg j = s.reg j := rfl

@[simp] theorem reg_setRegs (v : Vector Byte 16) (j : Reg) : (s.setRegs v).reg j = v[j] := rfl

/-! ### The skip -/

@[simp] theorem skipIf_mem (c : Bool) : (s.skipIf c).mem = s.mem := by cases c <;> rfl
@[simp] theorem skipIf_v (c : Bool) : (s.skipIf c).v = s.v := by cases c <;> rfl
@[simp] theorem skipIf_i (c : Bool) : (s.skipIf c).i = s.i := by cases c <;> rfl
@[simp] theorem skipIf_stack (c : Bool) : (s.skipIf c).stack = s.stack := by cases c <;> rfl
@[simp] theorem skipIf_sp (c : Bool) : (s.skipIf c).sp = s.sp := by cases c <;> rfl
@[simp] theorem skipIf_dt (c : Bool) : (s.skipIf c).dt = s.dt := by cases c <;> rfl
@[simp] theorem skipIf_st (c : Bool) : (s.skipIf c).st = s.st := by cases c <;> rfl
@[simp] theorem skipIf_fb (c : Bool) : (s.skipIf c).fb = s.fb := by cases c <;> rfl
@[simp] theorem skipIf_dirty (c : Bool) : (s.skipIf c).dirty = s.dirty := by cases c <;> rfl
@[simp] theorem skipIf_keys (c : Bool) : (s.skipIf c).keys = s.keys := by cases c <;> rfl
@[simp] theorem skipIf_halt (c : Bool) : (s.skipIf c).halt = s.halt := by cases c <;> rfl
@[simp] theorem skipIf_cause (c : Bool) : (s.skipIf c).cause = s.cause := by cases c <;> rfl
@[simp] theorem skipIf_draws (c : Bool) : (s.skipIf c).draws = s.draws := by cases c <;> rfl

@[simp] theorem reg_skipIf (c : Bool) (j : Reg) : (s.skipIf c).reg j = s.reg j := by cases c <;> rfl

@[simp] theorem skipIf_pc (c : Bool) : (s.skipIf c).pc = if c = true then s.pc + 4 else s.pc + 2 := by
  cases c <;> rfl

end Sys2Proof.Machine.State
end

