-- ==== Sys2Proof/Laws/Ops.lean ====
section
/-! SUPPORT. One lemma for each shared operation of Machine/Ops.lean, Operands.lean and Flags.lean that is not a plain
update: everything it can do, said once. -/

namespace Sys2Proof.Machine

/-! ### The stack -/

namespace State

/-- A push answers exactly when the stack is not full, and then writes one entry and `SP`. -/
theorem push_eq_some_iff (s t : State) (a : Word) :
    s.push a = some t ↔ ∃ h : s.sp.val < 16,
      t = { s with stack := s.stack.set s.sp.val a, sp := ⟨s.sp.val + 1, by omega⟩ } := by
  unfold push
  split
  · rename_i h; simp [h, eq_comm]
  · rename_i h; simp [h]

theorem push_eq_none_iff (s : State) (a : Word) : s.push a = none ↔ s.sp.val = 16 := by
  unfold push
  split <;> simp <;> omega

/-- A pop answers exactly when the stack is not empty, and then gives the top entry and writes only `SP`. -/
theorem pop_eq_some_iff (s t : State) (a : Word) :
    s.pop = some (a, t) ↔ ∃ h : 0 < s.sp.val,
      a = s.stack[s.sp.val - 1] ∧ t = { s with sp := ⟨s.sp.val - 1, by omega⟩ } := by
  unfold pop
  split
  · rename_i h; simp [h, eq_comm]
  · rename_i h; simp [h]

theorem pop_eq_none_iff (s : State) : s.pop = none ↔ s.sp.val = 0 := by
  unfold pop
  split <;> simp <;> omega

/-- The first key found is pressed, and no lower one is. -/
theorem firstKey_eq_some_iff (s : State) (k : Reg) :
    s.firstKey = some k ↔ s.keyPressed k = true ∧ ∀ j : Reg, j < k → s.keyPressed j = false := by
  have hall : ∀ j : Reg, j ∈ scanOrder := by decide
  have hsplit : ∀ k : Reg, scanOrder = scanOrder.take k.val ++ k :: scanOrder.drop (k.val + 1) := by decide
  have hbefore : ∀ k j : Reg, j ∈ scanOrder.take k.val → j < k := by decide
  unfold firstKey
  rw [List.find?_eq_some_iff_append]
  constructor
  · rintro ⟨hk, as, bs, hl, hn⟩
    refine ⟨hk, fun j hj => ?_⟩
    have hs : (as ++ k :: bs).Pairwise (· < ·) := by rw [← hl]; decide
    rw [List.pairwise_append] at hs
    rcases List.mem_append.1 (hl ▸ hall j) with h | h
    · simpa using hn j h
    · rcases List.mem_cons.1 h with h | h
      · exact absurd hj (by rw [h]; exact lt_irrefl k)
      · exact absurd ((List.pairwise_cons.1 hs.2.1).1 j h) (lt_asymm hj)
  · rintro ⟨hk, hn⟩
    exact ⟨hk, _, _, hsplit k, fun j hj => by simpa using hn j (hbefore k j hj)⟩

theorem firstKey_eq_none_iff (s : State) : s.firstKey = none ↔ ∀ k : Reg, s.keyPressed k = false := by
  have hall : ∀ k : Reg, k ∈ scanOrder := by decide
  simp only [firstKey, List.find?_eq_none, Bool.not_eq_true]
  exact ⟨fun h k => h k (hall k), fun h k _ => h k⟩

end State

/-! ### Operands and flags -/

@[simp] theorem addrOperand_toNat (nnn : Addr) : (addrOperand nnn).toNat = nnn.toNat := by
  simp [addrOperand]; omega

theorem offsetTarget_toNat (nnn : Addr) (b : Byte) : (offsetTarget nnn b).toNat = nnn.toNat + b.toNat := by
  simp [offsetTarget]; omega

theorem glyphAddress_toNat (b : Byte) : (glyphAddress b).toNat = 0x050 + 5 * (b.toNat % 16) := by
  simp [glyphAddress]; omega

theorem keyIndex_eq_some_iff (b : Byte) (k : Reg) : keyIndex b = some k ↔ b.toNat = k.val := by
  unfold keyIndex
  split
  · simp [Fin.ext_iff]
  · simp; omega

theorem keyIndex_eq_none_iff (b : Byte) : keyIndex b = none ↔ 15 < b.toNat := by
  unfold keyIndex
  split <;> simp <;> omega

@[simp] theorem inMemory_iff (last : Nat) : inMemory last = true ↔ last < 4096 := by simp [inMemory]

theorem countDown_toNat (b : Byte) : (countDown b).toNat = b.toNat - 1 := by
  unfold countDown
  split
  · rename_i h; simp [h]
  · rename_i h
    have : b.toNat ≠ 0 := fun h0 => h (BitVec.eq_of_toNat_eq h0)
    rw [BitVec.toNat_sub]; simp; omega

/-! ### The framebuffer -/

/-- A toggled pixel, and every other pixel as before. -/
theorem pixel_togglePixel (fb : Framebuffer) (x x' : Fin 64) (y y' : Fin 32) :
    pixel (togglePixel fb x y) x' y' = (pixel fb x' y' ^^ decide (x' = x ∧ y' = y)) := by
  unfold pixel togglePixel
  simp only [Fin.getElem_fin, Vector.getElem_set]
  by_cases hy : y = y'
  · subst hy
    simp only [if_true, BitVec.getLsbD_xor, BitVec.getLsbD_shiftLeft, BitVec.getLsbD_one, and_true]
    congr 1
    have := x'.isLt
    simp only [this, decide_true, Bool.true_and, Fin.ext_iff]
    by_cases hx : x'.val = x.val
    · simp [hx]
    · simp [hx]; omega
  · have h1 : ¬ (y.val = y'.val) := fun h => hy (Fin.ext h)
    have h2 : ¬ (y' = y) := fun h => hy h.symm
    simp [h1, h2]

@[simp] theorem pixel_clearFramebuffer (x : Fin 64) (y : Fin 32) : pixel clearFramebuffer x y = false := by
  simp [pixel, clearFramebuffer]

/-- Sprite columns land on distinct screen columns (R213). -/
theorem screenColumn_inj (vx : Byte) {a b : Nat} (ha : a < 8) (hb : b < 8) (h : screenColumn vx a = screenColumn vx b) :
    a = b := by
  have : (vx.toNat + a) % 64 = (vx.toNat + b) % 64 := congrArg Fin.val h
  omega

/-- Sprite rows land on distinct screen rows (R213). -/
theorem screenRow_inj (vy : Byte) {a b : Nat} (ha : a < 16) (hb : b < 16) (h : screenRow vy a = screenRow vy b) :
    a = b := by
  have : (vy.toNat + a) % 32 = (vy.toNat + b) % 32 := congrArg Fin.val h
  omega

/-! ### The fetch -/

theorem fetchWord_eq_none_iff (s : State) : fetchWord s = none ↔ 4096 ≤ s.pc.toNat + 1 := by
  unfold fetchWord
  split
  · rename_i h; simp at h ⊢; omega
  · rename_i h; simp at h ⊢; omega

theorem fetchWord_eq_some_iff (s : State) (w : Word) : fetchWord s = some w ↔
    s.pc.toNat + 1 < 4096 ∧ w = wordOfBytes (s.mem.read s.pc.toNat) (s.mem.read (s.pc.toNat + 1)) := by
  unfold fetchWord
  split
  · rename_i h; simp at h ⊢; simp [h, eq_comm]
  · rename_i h; simp at h ⊢; omega

end Sys2Proof.Machine
end

