-- ==== Sys2Proof/Laws/Draw.lean ====
section
/-! SUPPORT. What drawing does to a canvas, row by row and column by column (spec/44_display.md R211, R213): the pixels it
toggles and the collisions it sees. -/

namespace Sys2Proof.Machine

/-- One sprite bit toggles its own pixel if it is 1. -/
theorem pixel_drawBit (c : Canvas) (bit : Bool) (x x' : Fin 64) (y y' : Fin 32) :
    pixel (drawBit c bit x y).fb x' y' = (pixel c.fb x' y' ^^ (bit && decide (x' = x ∧ y' = y))) := by
  cases bit
  · simp [drawBit]
  · simp [drawBit, pixel_togglePixel]

/-- One sprite bit sees a collision if it is 1 and its pixel is on. -/
theorem hit_drawBit (c : Canvas) (bit : Bool) (x : Fin 64) (y : Fin 32) :
    (drawBit c bit x y).hit = (c.hit || (bit && pixel c.fb x y)) := by
  cases bit <;> simp [drawBit]

/-- The pixels a row's first `n` columns address. -/
def RowCovers (b vx : Byte) (y : Fin 32) (n : Nat) (px : Fin 64) (py : Fin 32) : Prop :=
  py = y ∧ ∃ col, col < n ∧ spriteBit b col = true ∧ px = screenColumn vx col

theorem rowCovers_succ (b vx : Byte) (y : Fin 32) (n : Nat) (px : Fin 64) (py : Fin 32) :
    RowCovers b vx y (n + 1) px py ↔
      RowCovers b vx y n px py ∨ (spriteBit b n = true ∧ px = screenColumn vx n ∧ py = y) := by
  constructor
  · rintro ⟨hy, col, hc, hb, hx⟩
    rcases Nat.lt_succ_iff_lt_or_eq.1 hc with h | rfl
    · exact .inl ⟨hy, col, h, hb, hx⟩
    · exact .inr ⟨hb, hx, hy⟩
  · rintro (⟨hy, col, hc, hb, hx⟩ | ⟨hb, hx, hy⟩)
    · exact ⟨hy, col, by omega, hb, hx⟩
    · exact ⟨hy, n, by omega, hb, hx⟩

/-- A row of up to 8 columns toggles exactly the pixels it addresses; it sees a collision when one of them was on. -/
theorem drawColumns_spec (b vx : Byte) (y : Fin 32) (n : Nat) (hn : n ≤ 8) (c : Canvas) :
    (∀ px py, RowCovers b vx y n px py → pixel (drawColumns b vx y n c).fb px py = !pixel c.fb px py) ∧
    (∀ px py, ¬ RowCovers b vx y n px py → pixel (drawColumns b vx y n c).fb px py = pixel c.fb px py) ∧
    ((drawColumns b vx y n c).hit = true ↔
      c.hit = true ∨ ∃ px py, RowCovers b vx y n px py ∧ pixel c.fb px py = true) := by
  induction n with
  | zero =>
    have hno : ∀ px py, ¬ RowCovers b vx y 0 px py := fun px py ⟨_, col, hc, _⟩ => by omega
    exact ⟨fun px py h => absurd h (hno px py), fun _ _ _ => rfl,
      ⟨fun h => .inl h, fun h => h.elim id fun ⟨px, py, h, _⟩ => absurd h (hno px py)⟩⟩
  | succ n ih =>
    obtain ⟨h1, h2, h3⟩ := ih (by omega)
    have hnew : ¬ RowCovers b vx y n (screenColumn vx n) y := fun ⟨_, col, hc, _, hx⟩ => by
      have := screenColumn_inj vx (by omega) (by omega) hx; omega
    refine ⟨fun px py h => ?_, fun px py h => ?_, ?_⟩
    · rw [drawColumns, pixel_drawBit]
      rcases (rowCovers_succ b vx y n px py).1 h with h | ⟨hb, rfl, rfl⟩
      · have : ¬ (px = screenColumn vx n ∧ py = y) := fun ⟨hx, hy⟩ => hnew (hx ▸ hy ▸ h)
        simp [this, h1 px py h]
      · simp [hb, h2 _ _ hnew]
    · rw [rowCovers_succ] at h
      rw [drawColumns, pixel_drawBit, h2 px py fun h' => h (.inl h')]
      by_cases hb : spriteBit b n = true
      · have : ¬ (px = screenColumn vx n ∧ py = y) := fun ⟨hx, hy⟩ => h (.inr ⟨hb, hx, hy⟩)
        simp [this]
      · simp [hb]
    · rw [drawColumns, hit_drawBit, Bool.or_eq_true, h3, Bool.and_eq_true, h2 _ _ hnew, or_assoc]
      refine or_congr Iff.rfl ⟨?_, ?_⟩
      · rintro (⟨px, py, hr, hp⟩ | ⟨hb, hp⟩)
        · exact ⟨px, py, (rowCovers_succ ..).2 (.inl hr), hp⟩
        · exact ⟨_, _, (rowCovers_succ ..).2 (.inr ⟨hb, rfl, rfl⟩), hp⟩
      · rintro ⟨px, py, hr, hp⟩
        rcases (rowCovers_succ ..).1 hr with hr | ⟨hb, rfl, rfl⟩
        · exact .inl ⟨px, py, hr, hp⟩
        · exact .inr ⟨hb, hp⟩

/-- The pixels that the first `n` rows of a sprite address. -/
def RowsCover (m : Memory) (base : Nat) (vx vy : Byte) (n : Nat) (px : Fin 64) (py : Fin 32) : Prop :=
  ∃ row, row < n ∧ RowCovers (m.read (base + row)) vx (screenRow vy row) 8 px py

theorem rowsCover_succ (m : Memory) (base : Nat) (vx vy : Byte) (n : Nat) (px : Fin 64) (py : Fin 32) :
    RowsCover m base vx vy (n + 1) px py ↔
      RowsCover m base vx vy n px py ∨ RowCovers (m.read (base + n)) vx (screenRow vy n) 8 px py := by
  constructor
  · rintro ⟨row, hr, h⟩
    rcases Nat.lt_succ_iff_lt_or_eq.1 hr with hr | rfl
    · exact .inl ⟨row, hr, h⟩
    · exact .inr h
  · rintro (⟨row, hr, h⟩ | h)
    · exact ⟨row, by omega, h⟩
    · exact ⟨n, by omega, h⟩

/-- Up to 15 rows toggle exactly the pixels they address; they see a collision when one of those was on. -/
theorem drawRows_spec (m : Memory) (base : Nat) (vx vy : Byte) (n : Nat) (hn : n ≤ 15) (c : Canvas) :
    (∀ px py, RowsCover m base vx vy n px py → pixel (drawRows m base vx vy n c).fb px py = !pixel c.fb px py) ∧
    (∀ px py, ¬ RowsCover m base vx vy n px py → pixel (drawRows m base vx vy n c).fb px py = pixel c.fb px py) ∧
    ((drawRows m base vx vy n c).hit = true ↔
      c.hit = true ∨ ∃ px py, RowsCover m base vx vy n px py ∧ pixel c.fb px py = true) := by
  induction n with
  | zero =>
    have hno : ∀ px py, ¬ RowsCover m base vx vy 0 px py := fun px py ⟨row, hr, _⟩ => by omega
    exact ⟨fun px py h => absurd h (hno px py), fun _ _ _ => rfl,
      ⟨fun h => .inl h, fun h => h.elim id fun ⟨px, py, h, _⟩ => absurd h (hno px py)⟩⟩
  | succ n ih =>
    obtain ⟨h1, h2, h3⟩ := ih (by omega)
    obtain ⟨k1, k2, k3⟩ := drawColumns_spec (m.read (base + n)) vx (screenRow vy n) 8 (by omega)
      (drawRows m base vx vy n c)
    have hnew : ∀ px py, RowCovers (m.read (base + n)) vx (screenRow vy n) 8 px py →
        ¬ RowsCover m base vx vy n px py := fun px py ⟨hy, _⟩ ⟨row, hr, hy', _⟩ => by
      have := screenRow_inj vy (by omega) (by omega) (hy'.symm.trans hy); omega
    refine ⟨fun px py h => ?_, fun px py h => ?_, ?_⟩
    · rw [drawRows]
      rcases (rowsCover_succ ..).1 h with h | h
      · rw [k2 px py fun h' => hnew px py h' h, h1 px py h]
      · rw [k1 px py h, h2 px py (hnew px py h)]
    · rw [rowsCover_succ, not_or] at h
      rw [drawRows, k2 px py h.2, h2 px py h.1]
    · rw [drawRows, k3, h3, or_assoc]
      refine or_congr Iff.rfl ⟨?_, ?_⟩
      · rintro (⟨px, py, hr, hp⟩ | ⟨px, py, hr, hp⟩)
        · exact ⟨px, py, (rowsCover_succ ..).2 (.inl hr), hp⟩
        · exact ⟨px, py, (rowsCover_succ ..).2 (.inr hr), (h2 px py (hnew px py hr)) ▸ hp⟩
      · rintro ⟨px, py, hr, hp⟩
        rcases (rowsCover_succ ..).1 hr with hr | hr
        · exact .inl ⟨px, py, hr, hp⟩
        · exact .inr ⟨px, py, hr, (h2 px py (hnew px py hr)).trans hp⟩

end Sys2Proof.Machine
end

