-- ==== Sys2Proof/Laws/Exec.lean ====
section
/-! SUPPORT. The instructions whose meaning branches, one lemma for each way they answer, with the condition in the numbers
of the spec; every other instruction answers the one state its definition in Machine/ names. -/

namespace Sys2Proof.Machine

variable (s : State)

/-! ### Control transfer -/

theorem exec_ret (h : 0 < s.sp.val) :
    exec .ret s = .next { s with sp := ⟨s.sp.val - 1, by omega⟩, pc := s.stack[s.sp.val - 1] } := by
  simp only [exec, execRet]; rw [(State.pop_eq_some_iff s _ _).2 ⟨h, rfl, rfl⟩]; rfl

theorem exec_ret_empty (h : s.sp.val = 0) : exec .ret s = .next (s.raise .stackUnderflow) := by
  simp only [exec, execRet]; rw [(State.pop_eq_none_iff s).2 h]

theorem exec_callNnn (nnn : Addr) (h : s.sp.val < 16) :
    exec (.callNnn nnn) s = .next { s with
      stack := s.stack.set s.sp.val (s.pc + 2), sp := ⟨s.sp.val + 1, by omega⟩, pc := addrOperand nnn } := by
  simp only [exec, execCallNnn]; rw [(State.push_eq_some_iff s _ _).2 ⟨h, rfl⟩]; rfl

theorem exec_callNnn_full (nnn : Addr) (h : s.sp.val = 16) :
    exec (.callNnn nnn) s = .next (s.raise .stackOverflow) := by
  simp only [exec, execCallNnn]; rw [(State.push_eq_none_iff s _).2 h]

/-! ### Memory -/

theorem exec_ldBVx (x : Reg) (h : s.i.toNat + 2 ≤ 0x0FFF) : exec (.ldBVx x) s =
    .next (s.setMem (s.mem.writeBytes s.i.toNat (decimalDigits (s.reg x)))).advance :=
  if_pos ((inMemory_iff _).2 (Nat.lt_succ_of_le h))

theorem exec_ldBVx_outside (x : Reg) (h : 0x0FFF < s.i.toNat + 2) :
    exec (.ldBVx x) s = .next (s.raise .addressOutOfRange) :=
  if_neg fun h' => Nat.not_lt.2 h ((inMemory_iff _).1 h')

theorem exec_ldMemVx (x : Reg) (h : s.i.toNat + x.val ≤ 0x0FFF) : exec (.ldMemVx x) s =
    .next (s.setMem (s.mem.writeBytes s.i.toNat (registerBytes s.v (blockSize x)))).advance :=
  if_pos ((inMemory_iff _).2 (Nat.lt_succ_of_le h))

theorem exec_ldMemVx_outside (x : Reg) (h : 0x0FFF < s.i.toNat + x.val) :
    exec (.ldMemVx x) s = .next (s.raise .addressOutOfRange) :=
  if_neg fun h' => Nat.not_lt.2 h ((inMemory_iff _).1 h')

theorem exec_ldVxMem (x : Reg) (h : s.i.toNat + x.val ≤ 0x0FFF) : exec (.ldVxMem x) s =
    .next (s.setRegs (loadRegisters s.mem s.i.toNat (blockSize x) s.v)).advance :=
  if_pos ((inMemory_iff _).2 (Nat.lt_succ_of_le h))

theorem exec_ldVxMem_outside (x : Reg) (h : 0x0FFF < s.i.toNat + x.val) :
    exec (.ldVxMem x) s = .next (s.raise .addressOutOfRange) :=
  if_neg fun h' => Nat.not_lt.2 h ((inMemory_iff _).1 h')

/-! ### The display -/

theorem spriteInMemory_iff (n : Nibble) :
    spriteInMemory s n = true ↔ n.toNat = 0 ∨ s.i.toNat + n.toNat - 1 ≤ 0x0FFF := by
  simp only [spriteInMemory, effectiveAddress, Bool.or_eq_true, beq_iff_eq, inMemory_iff]; omega

theorem exec_drwVxVyN (x y : Reg) (n : Nibble) (h : n.toNat = 0 ∨ s.i.toNat + n.toNat - 1 ≤ 0x0FFF) :
    exec (.drwVxVyN x y n) s =
      .next (((s.setFb (drawSprite s x y n).fb).setFlag (drawSprite s x y n).hit).markDirty).advance :=
  if_pos ((spriteInMemory_iff s n).2 h)

theorem exec_drwVxVyN_outside (x y : Reg) (n : Nibble) (h0 : 1 ≤ n.toNat) (h : 0x0FFF < s.i.toNat + n.toNat - 1) :
    exec (.drwVxVyN x y n) s = .next (s.raise .addressOutOfRange) :=
  if_neg fun h' => by have := (spriteInMemory_iff s n).1 h'; omega

/-! ### The keypad -/

theorem exec_skpVx (x : Reg) (k : Reg) (h : (s.reg x).toNat = k.val) :
    exec (.skpVx x) s = .next (s.skipIf (s.keyPressed k)) := by
  simp only [exec, execSkpVx, (keyIndex_eq_some_iff ..).2 h]

theorem exec_sknpVx (x : Reg) (k : Reg) (h : (s.reg x).toNat = k.val) :
    exec (.sknpVx x) s = .next (s.skipIf (!s.keyPressed k)) := by
  simp only [exec, execSknpVx, (keyIndex_eq_some_iff ..).2 h]

theorem exec_skpVx_outside (x : Reg) (h : 15 < (s.reg x).toNat) :
    exec (.skpVx x) s = .next (s.raise .addressOutOfRange) := by
  simp only [exec, execSkpVx, (keyIndex_eq_none_iff _).2 h]

theorem exec_sknpVx_outside (x : Reg) (h : 15 < (s.reg x).toNat) :
    exec (.sknpVx x) s = .next (s.raise .addressOutOfRange) := by
  simp only [exec, execSknpVx, (keyIndex_eq_none_iff _).2 h]

theorem exec_ldVxK (x k : Reg) (hk : s.keyPressed k = true) (hj : ∀ j : Reg, j < k → s.keyPressed j = false) :
    exec (.ldVxK x) s = .next (s.setReg x (BitVec.ofNat 8 k.val)).advance := by
  simp only [exec, execLdVxK, (State.firstKey_eq_some_iff s k).2 ⟨hk, hj⟩]

theorem exec_ldVxK_waiting (x : Reg) (h : ∀ k : Reg, s.keyPressed k = false) : exec (.ldVxK x) s = .next s := by
  simp only [exec, execLdVxK, (State.firstKey_eq_none_iff s).2 h]

end Sys2Proof.Machine
end

