-- ==== Sys2Proof/Laws/PerInstr.lean ====
section
/-! SUPPORT. Statements made once per instruction. The family `EncodesInRow`: the word an instruction is encoded as lies
in the instruction's own row of the opcode map (spec/30_encoding.md R96), whatever its operands. -/

namespace Sys2Proof.Laws.EncodesInRow

/-- The encoding under the row's mask is the row's pattern. -/
def Statement (i : Instr) : Prop := encode i &&& i.row.mask = i.row.pattern

theorem wordNNN_masked (f : Nibble) (nnn : Addr) (p : Word) (h : p.toNat = f.toNat * 4096) :
    wordNNN f nnn &&& 0xF000#16 = p := by
  apply BitVec.eq_of_toNat_eq; rw [and_F000_toNat, wordNNN_toNat]; omega

theorem wordXNN_masked (f : Nibble) (x : Reg) (nn : Byte) (p : Word) (h : p.toNat = f.toNat * 4096) :
    wordXNN f x nn &&& 0xF000#16 = p := by
  apply BitVec.eq_of_toNat_eq; rw [and_F000_toNat, wordXNN_toNat]; omega

theorem wordXYN_masked (f : Nibble) (x y : Reg) (n : Nibble) (p : Word) (h : p.toNat = f.toNat * 4096) :
    wordXYN f x y n &&& 0xF000#16 = p := by
  apply BitVec.eq_of_toNat_eq; rw [and_F000_toNat, wordXYN_toNat]; omega

theorem wordXYN_sub_masked (f : Nibble) (x y : Reg) (n : Nibble) (p : Word)
    (h : p.toNat = f.toNat * 4096 + n.toNat) : wordXYN f x y n &&& 0xF00F#16 = p := by
  apply BitVec.eq_of_toNat_eq; rw [and_F00F_toNat, wordXYN_toNat]; omega

theorem wordXNN_sub_masked (f : Nibble) (x : Reg) (nn : Byte) (p : Word)
    (h : p.toNat = f.toNat * 4096 + nn.toNat) : wordXNN f x nn &&& 0xF0FF#16 = p := by
  apply BitVec.eq_of_toNat_eq; rw [and_F0FF_toNat, wordXNN_toNat]; omega

theorem cls : Statement .cls := by unfold Statement; decide
theorem ret : Statement .ret := by unfold Statement; decide
theorem jpNnn (nnn : Addr) : Statement (.jpNnn nnn) := wordNNN_masked _ nnn _ rfl
theorem callNnn (nnn : Addr) : Statement (.callNnn nnn) := wordNNN_masked _ nnn _ rfl
theorem seVxNn (x : Reg) (nn : Byte) : Statement (.seVxNn x nn) := wordXNN_masked _ x nn _ rfl
theorem sneVxNn (x : Reg) (nn : Byte) : Statement (.sneVxNn x nn) := wordXNN_masked _ x nn _ rfl
theorem seVxVy (x : Reg) (y : Reg) (n : Nibble) : Statement (.seVxVy x y n) := wordXYN_masked _ x y n _ rfl
theorem ldVxNn (x : Reg) (nn : Byte) : Statement (.ldVxNn x nn) := wordXNN_masked _ x nn _ rfl
theorem addVxNn (x : Reg) (nn : Byte) : Statement (.addVxNn x nn) := wordXNN_masked _ x nn _ rfl
theorem ldVxVy (x : Reg) (y : Reg) : Statement (.ldVxVy x y) := wordXYN_sub_masked _ x y _ _ rfl
theorem orVxVy (x : Reg) (y : Reg) : Statement (.orVxVy x y) := wordXYN_sub_masked _ x y _ _ rfl
theorem andVxVy (x : Reg) (y : Reg) : Statement (.andVxVy x y) := wordXYN_sub_masked _ x y _ _ rfl
theorem xorVxVy (x : Reg) (y : Reg) : Statement (.xorVxVy x y) := wordXYN_sub_masked _ x y _ _ rfl
theorem addVxVy (x : Reg) (y : Reg) : Statement (.addVxVy x y) := wordXYN_sub_masked _ x y _ _ rfl
theorem subVxVy (x : Reg) (y : Reg) : Statement (.subVxVy x y) := wordXYN_sub_masked _ x y _ _ rfl
theorem shrVx (x : Reg) (y : Reg) : Statement (.shrVx x y) := wordXYN_sub_masked _ x y _ _ rfl
theorem subnVxVy (x : Reg) (y : Reg) : Statement (.subnVxVy x y) := wordXYN_sub_masked _ x y _ _ rfl
theorem shlVx (x : Reg) (y : Reg) : Statement (.shlVx x y) := wordXYN_sub_masked _ x y _ _ rfl
theorem sneVxVy (x : Reg) (y : Reg) (n : Nibble) : Statement (.sneVxVy x y n) := wordXYN_masked _ x y n _ rfl
theorem ldINnn (nnn : Addr) : Statement (.ldINnn nnn) := wordNNN_masked _ nnn _ rfl
theorem jpV0Nnn (nnn : Addr) : Statement (.jpV0Nnn nnn) := wordNNN_masked _ nnn _ rfl
theorem rndVxNn (x : Reg) (nn : Byte) : Statement (.rndVxNn x nn) := wordXNN_masked _ x nn _ rfl
theorem drwVxVyN (x : Reg) (y : Reg) (n : Nibble) : Statement (.drwVxVyN x y n) := wordXYN_masked _ x y n _ rfl
theorem skpVx (x : Reg) : Statement (.skpVx x) := wordXNN_sub_masked _ x _ _ rfl
theorem sknpVx (x : Reg) : Statement (.sknpVx x) := wordXNN_sub_masked _ x _ _ rfl
theorem ldVxDt (x : Reg) : Statement (.ldVxDt x) := wordXNN_sub_masked _ x _ _ rfl
theorem ldVxK (x : Reg) : Statement (.ldVxK x) := wordXNN_sub_masked _ x _ _ rfl
theorem ldDtVx (x : Reg) : Statement (.ldDtVx x) := wordXNN_sub_masked _ x _ _ rfl
theorem ldStVx (x : Reg) : Statement (.ldStVx x) := wordXNN_sub_masked _ x _ _ rfl
theorem addIVx (x : Reg) : Statement (.addIVx x) := wordXNN_sub_masked _ x _ _ rfl
theorem ldFVx (x : Reg) : Statement (.ldFVx x) := wordXNN_sub_masked _ x _ _ rfl
theorem ldBVx (x : Reg) : Statement (.ldBVx x) := wordXNN_sub_masked _ x _ _ rfl
theorem ldMemVx (x : Reg) : Statement (.ldMemVx x) := wordXNN_sub_masked _ x _ _ rfl
theorem ldVxMem (x : Reg) : Statement (.ldVxMem x) := wordXNN_sub_masked _ x _ _ rfl

end Sys2Proof.Laws.EncodesInRow
end

