-- ==== Sys2Proof/Laws/Step.lean ====
section
/-! SUPPORT. Everything a step can do, said once: the four ways a step ends in a next state. -/

namespace Sys2Proof.Machine

/-- The state of a step that has executed an instruction: as it was left if it faulted, ticked otherwise. -/
theorem finishStep_fst (t : State) : (finishStep t).1 = if t.halt = true then t else t.tick := by
  unfold finishStep; split <;> rfl

theorem finishStep_snd (t : State) : (finishStep t).2 = if t.halt = true then t.cause.status else .ok := by
  unfold finishStep; split <;> rfl

/-- The four ways `cycle` answers (R120). -/
theorem cycle_cases {s t : State} {st : Status} (h : cycle s = .next (t, st)) :
    (s.halt = true ∧ t = s ∧ st = s.cause.status) ∨
    (s.halt = false ∧ fetchWord s = none ∧ t = s.raise .addressOutOfRange ∧ st = .addressOutOfRange) ∨
    (∃ w, s.halt = false ∧ fetchWord s = some w ∧ decode w = none ∧ t = s.skipUnknown.tick ∧ st = .unknownOpcode) ∨
    (∃ w i u, s.halt = false ∧ fetchWord s = some w ∧ decode w = some i ∧ exec i s = .next u ∧
      (t, st) = finishStep u) := by
  unfold cycle at h
  split at h
  · rename_i hh; cases h; exact .inl ⟨hh, rfl, rfl⟩
  · rename_i hh
    have hh : s.halt = false := by simpa using hh
    split at h
    · rename_i hf; cases h; exact .inr (.inl ⟨hh, hf, rfl, rfl⟩)
    · rename_i w hf
      split at h
      · rename_i hd; cases h; exact .inr (.inr (.inl ⟨w, hh, hf, hd, rfl, rfl⟩))
      · rename_i i hd
        split at h
        · rename_i u he; injection h with h; exact .inr (.inr (.inr ⟨w, i, u, hh, hf, hd, he, h.symm⟩))
        · cases h
        · cases h

theorem step_eq_next_iff {s t : State} : step s = .next t ↔ ∃ st, cycle s = .next (t, st) := by
  unfold step nextState
  constructor
  · intro h
    split at h
    · rename_i u st hc; cases h; exact ⟨st, hc⟩
    · cases h
    · cases h
  · rintro ⟨st, hc⟩; rw [hc]

/-- The four ways `step` answers a next state (R120). -/
theorem step_cases {s t : State} (h : step s = .next t) :
    (s.halt = true ∧ t = s) ∨
    (s.halt = false ∧ fetchWord s = none ∧ t = s.raise .addressOutOfRange) ∨
    (∃ w, s.halt = false ∧ fetchWord s = some w ∧ decode w = none ∧ t = s.skipUnknown.tick) ∨
    (∃ w i u, s.halt = false ∧ fetchWord s = some w ∧ decode w = some i ∧ exec i s = .next u ∧
      t = if u.halt = true then u else u.tick) := by
  obtain ⟨st, hc⟩ := step_eq_next_iff.1 h
  rcases cycle_cases hc with ⟨a, b, _⟩ | ⟨a, b, c, _⟩ | ⟨w, a, b, c, d, _⟩ | ⟨w, i, u, a, b, c, d, e⟩
  · exact .inl ⟨a, b⟩
  · exact .inr (.inl ⟨a, b, c⟩)
  · exact .inr (.inr (.inl ⟨w, a, b, c, d⟩))
  · exact .inr (.inr (.inr ⟨w, i, u, a, b, c, d, (congrArg Prod.fst e).trans (finishStep_fst u)⟩))

/-- The cycle of an engine that is not halted, once the word is fetched and decoded and the instruction executed. -/
theorem cycle_of_exec {s u : State} {w : Word} {i : Instr} (hh : s.halt = false) (hf : fetchWord s = some w)
    (hd : decode w = some i) (he : exec i s = .next u) : cycle s = .next (finishStep u) := by
  simp [cycle, hh, hf, hd, he]

/-- A halted engine's cycle (R121). -/
theorem cycle_of_halted {s : State} (hh : s.halt = true) : cycle s = .next (s, s.cause.status) := if_pos hh

/-- The cycle when the fetch fails (R122). -/
theorem cycle_of_no_word {s : State} (hh : s.halt = false) (hf : fetchWord s = none) :
    cycle s = .next (s.raise .addressOutOfRange, .addressOutOfRange) := by
  simp only [cycle, hh, Bool.false_eq_true, if_false]; rw [hf]

/-- The cycle on an unknown word (R129). -/
theorem cycle_of_unknown {s : State} {w : Word} (hh : s.halt = false) (hf : fetchWord s = some w)
    (hd : decode w = none) : cycle s = .next (s.skipUnknown.tick, .unknownOpcode) := by
  simp [cycle, hh, hf, hd]

/-- What `step` leaves and what it returns, from the cycle. -/
theorem step_of_cycle {s t : State} {st : Status} (h : cycle s = .next (t, st)) : step s = .next t := by
  simp [step, nextState, h]

theorem stepStatus_of_cycle {s t : State} {st : Status} (h : cycle s = .next (t, st)) : stepStatus s = some st := by
  simp [stepStatus, h]

/-- The state a step leaves once the instruction at `PC` has answered `u`. -/
theorem step_of_exec {s u : State} {w : Word} {i : Instr} (hh : s.halt = false) (hf : fetchWord s = some w)
    (hd : decode w = some i) (he : exec i s = .next u) : step s = .next (if u.halt = true then u else u.tick) := by
  rw [← finishStep_fst]; exact step_of_cycle (cycle_of_exec hh hf hd he)

/-- The status a step returns once the instruction at `PC` has answered `u`. -/
theorem stepStatus_of_exec {s u : State} {w : Word} {i : Instr} (hh : s.halt = false) (hf : fetchWord s = some w)
    (hd : decode w = some i) (he : exec i s = .next u) :
    stepStatus s = some (if u.halt = true then u.cause.status else .ok) := by
  rw [← finishStep_snd]; exact stepStatus_of_cycle (cycle_of_exec hh hf hd he)

/-- The instruction at `PC` once the word is fetched. -/
theorem instrAtPc_of_fetch {s : State} {w : Word} (h : fetchWord s = some w) : instrAtPc s = decode w := by
  simp [instrAtPc, h]

/-- The word placed by `withFetchWord` is the word the next step fetches, wherever `PC` can fetch one. -/
theorem fetchWord_withFetchWord (s : State) (nbits w : Nat) (h : s.pc.toNat + 1 < 4096) :
    fetchWord (s.withFetchWord nbits w) = some (tableWord nbits w) := by
  rw [fetchWord_eq_some_iff]
  have hlen : s.pc.toNat + [hiByte (tableWord nbits w), loByte (tableWord nbits w)].length ≤ 4096 := by
    simp only [List.length_cons, List.length_nil]; omega
  refine ⟨h, ?_⟩
  simp only [State.withFetchWord, State.setMem_mem, State.setMem_pc]
  rw [Memory.read_writeBytes _ _ _ hlen, Memory.read_writeBytes _ _ _ hlen, if_pos (by simp), if_pos (by simp)]
  simp

end Sys2Proof.Machine
end

