-- ==== Sys2Proof/Tests/Slice0.lean ====
section
/-! SUPPORT. Tests of the model against values written in the spec, and for every statement with hypotheses a witness that
meets them. The expected values are those of spec/95_test_vectors.md (its row ids are cited) and of the examples of the
rules. -/

open Sys2Proof Sys2Proof.Machine

namespace Sys2Proof.Tests

/-! ### Small states and one step -/

/-- `s` with the word `w` where the next step fetches. -/
def placed (w : Nat) (s : State) : State := s.withFetchWord 16 w

/-- `s` with some registers set. -/
def withRegs (l : List (Reg × Byte)) (s : State) : State := l.foldl (fun s p => s.setReg p.1 p.2) s

/-- `s` with bytes stored from an address up. -/
def withBytes (a : Nat) (l : List Byte) (s : State) : State := s.setMem (s.mem.writeBytes a l)

/-- The state a step leaves. -/
def after (s : State) : Option State := match step s with
  | .next t => some t
  | .fault _ => none
  | .refused _ => none

/-- The status of the step that fetches `w`, and something read from the state it leaves. -/
def probe {α : Type} (w : Nat) (s : State) (f : State → α) : Option Status × Option α :=
  (stepStatus (placed w s), (after (placed w s)).map f)

/-- A framebuffer with some rows set. -/
def screen (l : List (Fin 32 × BitVec 64)) : Framebuffer := l.foldl (fun fb p => fb.set p.1 p.2) clearFramebuffer

/-! ### Well-formedness: each check refuses an ill-formed term (R97) -/

theorem test_wellFormed_refuses_ignored_nibble_of_5XY0 : (Instr.seVxVy 1 2 7).wellFormed = false := by decide
theorem test_wellFormed_refuses_ignored_nibble_of_9XY0 : (Instr.sneVxVy 1 2 8).wellFormed = false := by decide
theorem test_wellFormed_refuses_Y_of_8XY6 : (Instr.shrVx 3 1).wellFormed = false := by decide
theorem test_wellFormed_refuses_Y_of_8XYE : (Instr.shlVx 3 15).wellFormed = false := by decide
theorem test_wellFormed_accepts_the_canonical_forms : (Instr.seVxVy 1 2 0).wellFormed ∧
    (Instr.sneVxVy 1 2 0).wellFormed ∧ (Instr.shrVx 3 0).wellFormed ∧ (Instr.shlVx 3 0).wellFormed ∧
    Instr.cls.wellFormed := by decide

/-! ### Decoding: a word of every row of R96, its bits written out from the row's encoding -/

theorem test_decode_flow :
    decode 0b0000000011101110#16 = some .ret ∧                                -- 00EE
    decode 0b0001001000000100#16 = some (.jpNnn 0x204) ∧                      -- 1NNN, NNN = 204
    decode 0b0010001100000000#16 = some (.callNnn 0x300) ∧                    -- 2NNN, NNN = 300
    decode 0b0011000110100101#16 = some (.seVxNn 1 0xA5) ∧                    -- 3XNN, X = 1, NN = A5
    decode 0b0100101000000101#16 = some (.sneVxNn 10 0x05) ∧                  -- 4XNN, X = A, NN = 05
    decode 0b0101000100100111#16 = some (.seVxVy 1 2 7) ∧                     -- 5XY0, X = 1, Y = 2, ignored 7
    decode 0b1001001111010000#16 = some (.sneVxVy 3 13 0) ∧                   -- 9XY0, X = 3, Y = D
    decode 0b1011000100100011#16 = some (.jpV0Nnn 0x123) := by decide         -- BNNN, NNN = 123

theorem test_decode_load_alu :
    decode 0b0110000011101010#16 = some (.ldVxNn 0 0xEA) ∧                    -- 6XNN, X = 0, NN = EA
    decode 0b0111000111111111#16 = some (.addVxNn 1 0xFF) ∧                   -- 7XNN, X = 1, NN = FF
    decode 0b1000001011110000#16 = some (.ldVxVy 2 15) ∧                      -- 8XY0, X = 2, Y = F
    decode 0b1000101010110001#16 = some (.orVxVy 10 11) ∧                     -- 8XY1, X = A, Y = B
    decode 0b1000101010110010#16 = some (.andVxVy 10 11) ∧                    -- 8XY2
    decode 0b1000101010110011#16 = some (.xorVxVy 10 11) ∧                    -- 8XY3
    decode 0b1000101010110100#16 = some (.addVxVy 10 11) ∧                    -- 8XY4
    decode 0b1000101010110101#16 = some (.subVxVy 10 11) ∧                    -- 8XY5
    decode 0b1000101010110110#16 = some (.shrVx 10 11) ∧                      -- 8XY6
    decode 0b1000101010110111#16 = some (.subnVxVy 10 11) ∧                   -- 8XY7
    decode 0b1000101010111110#16 = some (.shlVx 10 11) := by decide           -- 8XYE

theorem test_decode_index_memory :
    decode 0b1010001100000001#16 = some (.ldINnn 0x301) ∧                     -- ANNN, NNN = 301
    decode 0b1111001000011110#16 = some (.addIVx 2) ∧                         -- FX1E, X = 2
    decode 0b1111010100101001#16 = some (.ldFVx 5) ∧                          -- FX29, X = 5
    decode 0b1111011000110011#16 = some (.ldBVx 6) ∧                          -- FX33, X = 6
    decode 0b1111001001010101#16 = some (.ldMemVx 2) ∧                        -- FX55, X = 2
    decode 0b1111100101100101#16 = some (.ldVxMem 9) := by decide             -- FX65, X = 9

theorem test_decode_display_input :
    decode 0b0000000011100000#16 = some .cls ∧                                -- 00E0
    decode 0b1101000100100101#16 = some (.drwVxVyN 1 2 5) ∧                   -- DXYN, X = 1, Y = 2, N = 5
    decode 0b1100001100001111#16 = some (.rndVxNn 3 0x0F) ∧                   -- CXNN, X = 3, NN = 0F
    decode 0b1110000110011110#16 = some (.skpVx 1) ∧                          -- EX9E, X = 1
    decode 0b1110001010100001#16 = some (.sknpVx 2) ∧                         -- EXA1, X = 2
    decode 0b1111001000000111#16 = some (.ldVxDt 2) ∧                         -- FX07, X = 2
    decode 0b1111000100001010#16 = some (.ldVxK 1) ∧                          -- FX0A, X = 1
    decode 0b1111000000010101#16 = some (.ldDtVx 0) ∧                         -- FX15, X = 0
    decode 0b1111110000011000#16 = some (.ldStVx 12) := by decide             -- FX18, X = C

/-- The rejections, by name (R98; rows Y2 to Y5, K7, K24, K25; A39 and A40). -/
theorem test_decode_rejects_by_name :
    decodeBytes [0x01, 0x23] = .rejected (.unknownOpcode 0x0123#16) ∧ decode 0x00E1#16 = none ∧
    decode 0x00FE#16 = none ∧ decode 0xFFFF#16 = none ∧ decode 0xE19F#16 = none ∧ decode 0xF1FF#16 = none ∧
    decode 0xF075#16 = none ∧ decode 0x8128#16 = none ∧ decode 0x801F#16 = none ∧
    decodeBytes [0xA2] = .rejected .truncated := by decide

/-- The word of the host's numbering, and its bytes in memory (R64). -/
theorem test_decodeTableWord : decodeTableWord 16 0xA300 = some (.ldINnn 0x300) ∧ decodeTableWord 16 0x8128 = none ∧
    encodeBytes (.ldINnn 0x206) = [0xA2, 0x06] := by decide

/-- The map of R96 has its 34 rows. -/
theorem test_opcodeMap_length : opcodeMap.length = 34 := by decide

/-! ### The step cycle -/

/-- Y1, Y5: an unknown word advances and ticks. -/
theorem test_unknown_word_ticks : probe 0x0000 { State.reset with dt := 1, st := 2 } (fun t => (t.pc, t.dt, t.st, t.halt)) =
    (some .unknownOpcode, some (0x202#16, 0#8, 1#8, false)) := by decide

/-- Y7: the last address that can be fetched, and `PC` is not masked. -/
theorem test_last_fetchable_address : probe 0x6011 { State.reset with pc := 0x0FFE#16 } (fun t => (t.reg 0, t.pc)) =
    (some .ok, some (0x11#8, 0x1000#16)) := by decide

/-- Y6, Y8: the fetch faults, `PC` stays, no tick. -/
theorem test_fetch_fault : (after { State.reset with pc := 0x0FFF#16, dt := 4 }).map
      (fun t => (t.halt, t.cause.code, t.pc, t.dt)) = some (true, 2#3, 0x0FFF#16, 4#8) ∧
    stepStatus { State.reset with pc := 0x1000#16 } = some .addressOutOfRange := by decide

/-- Y10: an odd `PC`; Y13: big-endian. -/
theorem test_odd_pc : probe 0x6011 { State.reset with pc := 0x0201#16 } (fun t => (t.reg 0, t.pc)) =
    (some .ok, some (0x11#8, 0x203#16)) := by decide
theorem test_big_endian : (after (withBytes 0x200 [0xA2, 0x34] State.reset)).map (·.i) = some 0x234#16 := by decide

/-- Y12: a halted engine. -/
theorem test_halted : probe 0x6011 { State.reset with halt := true, cause := .addressOutOfRange, dt := 3 }
    (fun t => (t.reg 0, t.pc, t.dt)) = (some .addressOutOfRange, some (0#8, 0x200#16, 3#8)) := by decide

/-! ### Control transfer -/

/-- F1, F2. -/
theorem test_ret : probe 0x00EE { State.reset with pc := 0x212#16, sp := 1, stack := State.reset.stack.set 0 0x206#16 }
      (fun t => (t.sp, t.pc)) = (some .ok, some (0, 0x206#16)) ∧
    probe 0x00EE { State.reset with pc := 0x212#16 } (fun t => (t.halt, t.cause.code, t.sp, t.pc)) =
      (some .stackUnderflow, some (true, 4#3, 0, 0x212#16)) := by decide
/-- F4, Y11. -/
theorem test_jp : probe 0x1FFF State.reset (·.pc) = (some .ok, some 0xFFF#16) ∧
    probe 0x1200 { State.reset with dt := 1, st := 255 } (fun t => (t.pc, t.dt, t.st)) =
      (some .ok, some (0x200#16, 0#8, 254#8)) := by decide
/-- F6: a 13-bit return address. -/
theorem test_call : probe 0x2ABC { State.reset with pc := 0x0FFE#16 } (fun t => (t.stack[0], t.sp, t.pc)) =
    (some .ok, some (0x1000#16, 1, 0xABC#16)) := by decide
/-- F7, F8: the 17th nested call faults, the 16th does not. -/
theorem test_call_full : probe 0x2300 { State.reset with pc := 0x204#16, sp := 16 } (fun t => (t.cause.code, t.sp, t.pc)) =
      (some .stackOverflow, some (3#3, 16, 0x204#16)) ∧
    probe 0x2300 { State.reset with pc := 0x204#16, sp := 15 } (fun t => (t.stack[15], t.sp, t.pc)) =
      (some .ok, some (0x206#16, 16, 0x300#16)) := by decide
/-- F9, F10. -/
theorem test_jpV0 : probe 0xBFFF (withRegs [(0, 0xFF)] State.reset) (·.pc) = (some .ok, some 0x10FE#16) ∧
    probe 0xB300 (withRegs [(0, 0x04)] State.reset) (·.pc) = (some .ok, some 0x304#16) := by decide
/-- F12, F13. -/
theorem test_seVxNn : probe 0x3F01 (withRegs [(15, 1)] State.reset) (·.pc) = (some .ok, some 0x204#16) ∧
    probe 0x3100 (withRegs [(1, 1)] State.reset) (·.pc) = (some .ok, some 0x202#16) := by decide
/-- F14, and the other arm of the example of R145. -/
theorem test_sneVxNn : probe 0x4A05 (withRegs [(10, 5)] State.reset) (·.pc) = (some .ok, some 0x202#16) ∧
    probe 0x4A05 (withRegs [(10, 6)] State.reset) (·.pc) = (some .ok, some 0x204#16) := by decide
/-- F15: the low nibble is ignored. -/
theorem test_seVxVy : probe 0x5127 (withRegs [(1, 0x7F), (2, 0x7F)] State.reset) (·.pc) =
    (some .ok, some 0x204#16) := by decide
/-- F17, F18. -/
theorem test_sneVxVy : probe 0x9330 (withRegs [(3, 9)] State.reset) (·.pc) = (some .ok, some 0x202#16) ∧
    probe 0x9120 (withRegs [(1, 1), (2, 2)] State.reset) (·.pc) = (some .ok, some 0x204#16) := by decide

/-! ### Loads and the ALU: `V0`, `V1`, `VF` and `PC` after -/

/-- The registers the vectors of section 4 list, before and after. -/
def alu (w : Nat) (v0 v1 vf : Byte) : Option Status × Option (Byte × Byte × Byte × Word) :=
  probe w (withRegs [(0, v0), (1, v1), (15, vf)] State.reset) (fun t => (t.reg 0, t.reg 1, t.reg 15, t.pc))

/-- A1, A2. -/
theorem test_ldVxNn : alu 0x60FF 0 0 0 = (some .ok, some (0xFF#8, 0#8, 0#8, 0x202#16)) ∧
    alu 0x6F07 0 0 0 = (some .ok, some (0#8, 0#8, 7#8, 0x202#16)) := by decide
/-- A3, A5. -/
theorem test_addVxNn : alu 0x7001 0xFF 0 0 = (some .ok, some (0#8, 0#8, 0#8, 0x202#16)) ∧
    alu 0x70FF 5 0 7 = (some .ok, some (4#8, 0#8, 7#8, 0x202#16)) := by decide
/-- A6. -/
theorem test_ldVxVy : alu 0x8010 1 0xAA 9 = (some .ok, some (0xAA#8, 0xAA#8, 9#8, 0x202#16)) := by decide
/-- A7. -/
theorem test_orVxVy : alu 0x8011 0xF0 0x0F 9 = (some .ok, some (0xFF#8, 0x0F#8, 9#8, 0x202#16)) := by decide
/-- A8. -/
theorem test_andVxVy : alu 0x8012 0xF3 0x3F 9 = (some .ok, some (0x33#8, 0x3F#8, 9#8, 0x202#16)) := by decide
/-- A9. -/
theorem test_xorVxVy : alu 0x8013 0xFF 0x0F 9 = (some .ok, some (0xF0#8, 0x0F#8, 9#8, 0x202#16)) := by decide
/-- A11, A12. -/
theorem test_addVxVy : alu 0x8014 0xFF 1 0 = (some .ok, some (0#8, 1#8, 1#8, 0x202#16)) ∧
    alu 0x8014 1 1 1 = (some .ok, some (2#8, 1#8, 0#8, 0x202#16)) := by decide
/-- A16, A17: `Y = F`, and `X = Y = F`. -/
theorem test_addVxVy_flag : alu 0x80F4 0xFF 0 1 = (some .ok, some (0#8, 0#8, 1#8, 0x202#16)) ∧
    alu 0x8FF4 0 0 0x81 = (some .ok, some (0#8, 0#8, 2#8, 0x202#16)) := by decide
/-- A19, A20. -/
theorem test_subVxVy : alu 0x8015 3 5 1 = (some .ok, some (0xFE#8, 5#8, 0#8, 0x202#16)) ∧
    alu 0x8015 7 7 0 = (some .ok, some (0#8, 7#8, 1#8, 0x202#16)) := by decide
/-- A22, A24. -/
theorem test_subVxVy_flag : alu 0x8F15 0 5 3 = (some .ok, some (0#8, 5#8, 0xFE#8, 0x202#16)) ∧
    alu 0x80F5 0 0 1 = (some .ok, some (0xFF#8, 0#8, 0#8, 0x202#16)) := by decide
/-- A31, A34. -/
theorem test_shrVx : alu 0x8016 5 0xAA 0 = (some .ok, some (2#8, 0xAA#8, 1#8, 0x202#16)) ∧
    alu 0x8F06 0 0 3 = (some .ok, some (0#8, 0#8, 1#8, 0x202#16)) := by decide
/-- A26, A27. -/
theorem test_subnVxVy : alu 0x8017 3 5 0 = (some .ok, some (2#8, 5#8, 1#8, 0x202#16)) ∧
    alu 0x8017 5 3 1 = (some .ok, some (0xFE#8, 3#8, 0#8, 0x202#16)) := by decide
/-- A35, A38. -/
theorem test_shlVx : alu 0x801E 0x81 0x55 0 = (some .ok, some (2#8, 0x55#8, 1#8, 0x202#16)) ∧
    alu 0x8F0E 0 0 0x81 = (some .ok, some (0#8, 0#8, 2#8, 0x202#16)) := by decide

/-! ### The index register and memory -/

/-- M1. -/
theorem test_ldINnn : probe 0xAFFF State.reset (fun t => (t.i, t.pc)) = (some .ok, some (0xFFF#16, 0x202#16)) := by decide
/-- M3, M5. -/
theorem test_addIVx : probe 0xF01E (withRegs [(0, 1)] { State.reset with i := 0xFFF#16 }) (fun t => (t.i, t.reg 15)) =
      (some .ok, some (0#16, 1#8)) ∧
    probe 0xFF1E (withRegs [(15, 3)] { State.reset with i := 0xFFE#16 }) (fun t => (t.i, t.reg 15)) =
      (some .ok, some (1#16, 1#8)) := by decide
/-- M7, M9. -/
theorem test_ldFVx : probe 0xF029 (withRegs [(0, 5)] State.reset) (·.i) = (some .ok, some 0x069#16) ∧
    probe 0xF029 (withRegs [(0, 0x1A)] State.reset) (·.i) = (some .ok, some 0x082#16) := by decide
/-- M12: the last legal address. -/
theorem test_ldBVx : probe 0xF033 (withRegs [(0, 0xFF)] { State.reset with i := 0xFFD#16 })
    (fun t => (t.mem.read 0xFFD, t.mem.read 0xFFE, t.mem.read 0xFFF, t.i)) =
    (some .ok, some (2#8, 5#8, 5#8, 0xFFD#16)) := by decide
/-- M13: nothing is written. -/
theorem test_ldBVx_outside : probe 0xF033 (withBytes 0xFFE [0x11, 0x22] (withRegs [(0, 0xFF)] { State.reset with i := 0xFFE#16 }))
    (fun t => (t.halt, t.mem.read 0xFFE, t.mem.read 0xFFF, t.pc)) =
    (some .addressOutOfRange, some (true, 0x11#8, 0x22#8, 0x200#16)) := by decide
/-- M15, M23: the store over the instruction itself. -/
theorem test_ldMemVx : probe 0xF255 (withRegs [(0, 1), (1, 2), (2, 3), (3, 9)] { State.reset with i := 0x400#16 })
      (fun t => (t.mem.read 0x400, t.mem.read 0x401, t.mem.read 0x402, t.mem.read 0x403, t.i)) =
      (some .ok, some (1#8, 2#8, 3#8, 0#8, 0x400#16)) ∧
    probe 0xF055 (withRegs [(0, 0x12)] { State.reset with i := 0x200#16 })
      (fun t => (t.mem.read 0x200, t.mem.read 0x201, t.pc)) = (some .ok, some (0x12#8, 0x55#8, 0x202#16)) := by decide
/-- M16, M17: 16 bytes up to the last address, and one too far. -/
theorem test_ldMemVx_end : probe 0xFF55 (withRegs [(0, 1), (15, 0xAB)] { State.reset with i := 0xFF0#16 })
      (fun t => (t.mem.read 0xFF0, t.mem.read 0xFF1, t.mem.read 0xFFF)) = (some .ok, some (1#8, 0#8, 0xAB#8)) ∧
    probe 0xFF55 (withRegs [(0, 1), (15, 0xAB)] { State.reset with i := 0xFF1#16 }) (fun t => t.mem.read 0xFF1) =
      (some .addressOutOfRange, some 0#8) := by decide
/-- M20. -/
theorem test_ldVxMem : probe 0xF265 (withBytes 0x300 [2, 3, 4, 5] (withRegs [(2, 9)] { State.reset with i := 0x300#16 }))
    (fun t => (t.reg 0, t.reg 1, t.reg 2, t.reg 3, t.i)) = (some .ok, some (2#8, 3#8, 4#8, 0#8, 0x300#16)) := by decide
/-- M21, M24 (the font is the default of R66). -/
theorem test_ldVxMem_end : probe 0xF165 (withBytes 0xFFF [0x5A] (withRegs [(0, 1), (1, 2)] { State.reset with i := 0xFFF#16 }))
      (fun t => (t.reg 0, t.reg 1)) = (some .addressOutOfRange, some (1#8, 2#8)) ∧
    probe 0xF165 { State.reset with i := 0x050#16 } (fun t => (t.reg 0, t.reg 1)) =
      (some .ok, some (0xF0#8, 0x90#8)) := by decide

/-! ### The display -/

/-- G13, G14. -/
theorem test_cls : probe 0x00E0 (withRegs [(15, 1)] { State.reset with fb := screen [(0, 1), (31, 1#64 <<< 63)] })
      (fun t => (t.fb == screen [], t.reg 15, t.dirty)) = (some .ok, some (true, 1#8, false)) ∧
    probe 0x00E0 { State.reset with dirty := true } (·.dirty) = (some .ok, some true) := by decide
/-- G3: both coordinates at the edge, the row wraps; G12: one pixel collides, one does not. -/
theorem test_drwVxVyN : probe 0xD011 (withBytes 0x300 [0xFF] (withRegs [(0, 62), (1, 31)] { State.reset with i := 0x300#16 }))
      (fun t => (t.fb == screen [(31, 0xC00000000000003F#64)], t.reg 15, t.dirty)) = (some .ok, some (true, 0#8, true)) ∧
    probe 0xD011 (withBytes 0x300 [0xC0] { State.reset with i := 0x300#16, fb := screen [(0, 2)] })
      (fun t => (t.fb == screen [(0, 1)], t.reg 15)) = (some .ok, some (true, 1#8)) := by decide
/-- G8: nothing is drawn, `VF` is kept; G10: the column is the old `VF`. -/
theorem test_drwVxVyN_corners : probe 0xD012 (withBytes 0xFFF [0xFF] (withRegs [(15, 7)] { State.reset with i := 0xFFF#16 }))
      (fun t => (t.fb == screen [], t.reg 15, t.dirty, t.pc)) =
      (some .addressOutOfRange, some (true, 7#8, false, 0x200#16)) ∧
    probe 0xDF01 (withBytes 0x300 [0x80] (withRegs [(15, 5)] { State.reset with i := 0x300#16 }))
      (fun t => (t.fb == screen [(0, 0x20)], t.reg 15)) = (some .ok, some (true, 0#8)) := by decide

/-! ### Keypad, timers, random -/

/-- K1, K5: the index 16 is not masked to 0. -/
theorem test_skpVx : probe 0xE19E (withRegs [(1, 7)] { State.reset with keys := 0x0080#16 }) (·.pc) =
      (some .ok, some 0x204#16) ∧
    probe 0xE19E (withRegs [(1, 16)] { State.reset with keys := 1#16 }) (fun t => (t.halt, t.pc)) =
      (some .addressOutOfRange, some (true, 0x200#16)) := by decide
/-- K3, K6. -/
theorem test_sknpVx : probe 0xE1A1 (withRegs [(1, 7)] State.reset) (·.pc) = (some .ok, some 0x204#16) ∧
    probe 0xE1A1 (withRegs [(1, 0xFF)] { State.reset with dt := 3 }) (fun t => (t.halt, t.dt)) =
      (some .addressOutOfRange, some (true, 3#8)) := by decide
/-- K8, K10. -/
theorem test_ldVxK : probe 0xF10A (withRegs [(1, 0x55)] { State.reset with pc := 0x204#16, dt := 2, st := 1 })
      (fun t => (t.pc, t.reg 1, t.dt, t.st)) = (some .ok, some (0x204#16, 0x55#8, 1#8, 0#8)) ∧
    probe 0xF10A { State.reset with pc := 0x204#16, keys := 0x1208#16 } (fun t => (t.pc, t.reg 1)) =
      (some .ok, some (0x206#16, 3#8)) := by decide
/-- K12: read before the tick. -/
theorem test_ldVxDt : probe 0xF207 { State.reset with dt := 5 } (fun t => (t.reg 2, t.dt)) =
    (some .ok, some (5#8, 4#8)) := by decide
/-- K14, K16: loaded, then ticked. -/
theorem test_ldDtVx : probe 0xF015 (withRegs [(0, 10)] State.reset) (·.dt) = (some .ok, some 9#8) ∧
    probe 0xF015 (withRegs [(0, 1)] State.reset) (·.dt) = (some .ok, some 0#8) := by decide
/-- K19. -/
theorem test_ldStVx : probe 0xF018 (withRegs [(0, 0xFF)] { State.reset with dt := 1 }) (fun t => (t.st, t.dt)) =
    (some .ok, some (254#8, 0#8)) := by decide
/-- K21: with mask 0 the result does not depend on the draw, and one byte is consumed. -/
theorem test_rndVxNn (s : State) : ∃ t, exec (.rndVxNn 3 0x00) s = .next t ∧ t.reg 3 = 0 ∧ t.draws = s.draws + 1 :=
  ⟨_, rfl, by simp [State.reg], rfl⟩

/-! ### Reset and the host -/

/-- S1, and the default font of R66: the first byte of glyph 0 and the last of glyph F. -/
theorem test_reset : State.reset.pc = 0x200#16 ∧ State.reset.mem.read 0x050 = 0xF0#8 ∧ State.reset.mem.read 0x09F = 0x80#8 ∧
    State.reset.mem.read 0x04F = 0#8 ∧ State.reset.mem.read 0x0A0 = 0#8 := by decide

/-- The parameter `FONT` (R42): an engine with another font table has it in memory, a program reads it, a store over it
is kept apart from it, and a reset brings it back. -/
theorem test_another_font : probe 0xF165 { State.resetWith (Vector.replicate 80 0xAA#8) with i := 0x050#16 }
      (fun t => (t.reg 0, t.reg 1)) = (some .ok, some (0xAA#8, 0xAA#8)) ∧
    (withBytes 0x050 [0x11] (State.resetWith (Vector.replicate 80 0xAA#8))).mem.read 0x050 = 0x11#8 ∧
    (withBytes 0x050 [0x11] (State.resetWith (Vector.replicate 80 0xAA#8))).resetMove.mem.read 0x050 = 0xAA#8 := by decide

/-- S2: a load. -/
theorem test_loadProgram : (match Session.start.move (.loadProgram [0x12, 0x00]) with
    | .next (h, r) => (r, h.machine.mem.read 0x200, h.machine.mem.read 0x202, h.machine.pc, h.phase)
    | _ => (.done, 0xFF#8, 0xFF#8, 0xFF#16, .stepped)) = (.status .ok, 0x12#8, 0#8, 0x200#16, .loaded) := by decide

/-- The host's move that is none: a second load (R293). -/
theorem test_second_load : Session.move (.loadProgram []) ⟨State.reset, .loaded⟩ = .refused .loadNotAdmitted := rfl

/-! ### Witnesses: concrete states and operands that meet the hypotheses of each statement

Where a statement has several clauses, one witness for each, at the boundary of its range. -/

/-- The instruction word `w` stands at `PC` of `placed w s`. -/
def meets (w : Nat) (i : Instr) (s : State) : Prop :=
  (placed w s).halt = false ∧ fetchWord (placed w s) = some (tableWord 16 w) ∧ decode (tableWord 16 w) = some i ∧
    instrAtPc (placed w s) = some i

theorem witness_EncodeOfDecodeIsTheWord : decode 0x8AB6#16 = some (.shrVx 10 11) := by decide

theorem witness_DecodeFollowsTheOpcodeMap : decode 0x5127#16 = some (.seVxVy 1 2 7) ∧
    (Instr.seVxVy 0 0 0).row ∈ opcodeMap ∧ 0x5127#16 &&& (Instr.seVxVy 0 0 0).row.mask = (Instr.seVxVy 0 0 0).row.pattern := by
  decide

/-- One unknown word of each row of R98, and none where a row's exception lies. -/
theorem witness_UnknownWordsAreExactlyTheListedOnes : decode 0x00E1#16 = none ∧ decode 0x8008#16 = none ∧
    decode 0xE09F#16 = none ∧ decode 0xF075#16 = none ∧ decode 0x00E0#16 ≠ none ∧ decode 0x800E#16 ≠ none ∧
    decode 0xE0A1#16 ≠ none ∧ decode 0xF065#16 ≠ none := by decide

/-- Both clauses: an instruction that completes, and one that raises. -/
theorem witness_StepRunsTheDecodedInstruction :
    (meets 0x00E0 .cls State.reset ∧ ∃ t, exec .cls (placed 0x00E0 State.reset) = .next t ∧ t.halt = false) ∧
    (meets 0x00EE .ret State.reset ∧ ∃ t, exec .ret (placed 0x00EE State.reset) = .next t ∧ t.halt = true) :=
  ⟨⟨by unfold meets; decide, _, rfl, rfl⟩, by unfold meets; decide, _, rfl, rfl⟩

/-- Both clauses, at 0x0FFE and 0x0FFF. -/
theorem witness_FetchIsBigEndianAndBounded :
    ({ State.reset with pc := 0x0FFE#16 } : State).halt = false ∧ (0x0FFE#16).toNat + 1 < 4096 ∧
    4096 ≤ (0x0FFF#16).toNat + 1 := by decide

theorem witness_UnknownWordAdvancesAndTicks : State.reset.halt = false ∧ fetchWord State.reset = some 0x0000#16 ∧
    decode 0x0000#16 = none := by decide

theorem witness_HaltedStepChangesNothing : (State.reset.raise .stackOverflow).halt = true := by decide

/-- The three clauses: `Ok`, `UnknownOpcode`, a fault. -/
theorem witness_EveryStepAnswersWithItsStatus :
    (meets 0x00E0 .cls State.reset ∧ stepStatus (placed 0x00E0 State.reset) = some .ok) ∧
    (fetchWord State.reset = some 0x0000#16 ∧ stepStatus State.reset = some .unknownOpcode) ∧
    (after (placed 0x00EE State.reset)).map (·.halt) = some true := by unfold meets; decide

theorem witness_FatalFaultsWriteOnlyHaltAndCause : (placed 0x00EE State.reset).halt = false ∧
    (after (placed 0x00EE State.reset)).map (·.halt) = some true := by decide

/-- Every row of the table of R252 at the first address or index that faults, and the one before it. -/
theorem witness_AddressOutOfRangeExactlyWhereListed :
    stepStatus { State.reset with pc := 0x0FFF#16 } = some .addressOutOfRange ∧
    stepStatus { State.reset with pc := 0x0FFE#16 } = some .unknownOpcode ∧
    stepStatus (placed 0xD012 { State.reset with i := 0xFFF#16 }) = some .addressOutOfRange ∧
    stepStatus (placed 0xD011 { State.reset with i := 0xFFF#16 }) = some .ok ∧
    stepStatus (placed 0xD010 { State.reset with i := 0xFFF#16 }) = some .ok ∧
    stepStatus (placed 0xF033 { State.reset with i := 0xFFE#16 }) = some .addressOutOfRange ∧
    stepStatus (placed 0xF033 { State.reset with i := 0xFFD#16 }) = some .ok ∧
    stepStatus (placed 0xF155 { State.reset with i := 0xFFF#16 }) = some .addressOutOfRange ∧
    stepStatus (placed 0xF055 { State.reset with i := 0xFFF#16 }) = some .ok ∧
    stepStatus (placed 0xF165 { State.reset with i := 0xFFF#16 }) = some .addressOutOfRange ∧
    stepStatus (placed 0xF065 { State.reset with i := 0xFFF#16 }) = some .ok ∧
    stepStatus (placed 0xE09E (withRegs [(0, 16)] State.reset)) = some .addressOutOfRange ∧
    stepStatus (placed 0xE0A1 (withRegs [(0, 15)] State.reset)) = some .ok := by decide

theorem witness_StackFaultsExactlyOnFullAndEmpty :
    stepStatus (placed 0x2300 { State.reset with sp := 16 }) = some .stackOverflow ∧
    stepStatus (placed 0x2300 { State.reset with sp := 15 }) = some .ok ∧
    stepStatus (placed 0x00EE { State.reset with sp := 0 }) = some .stackUnderflow ∧
    stepStatus (placed 0x00EE { State.reset with sp := 1 }) = some .ok := by decide

/-- The four clauses: FX15, FX18, and a step that is neither. -/
theorem witness_EveryNormalStepTicksBothTimersOnce :
    (meets 0xF015 (.ldDtVx 0) State.reset ∧ (after (placed 0xF015 State.reset)).map (·.halt) = some false) ∧
    (meets 0xF018 (.ldStVx 0) State.reset ∧ (after (placed 0xF018 State.reset)).map (·.halt) = some false) ∧
    (meets 0x00E0 .cls State.reset ∧ (after (placed 0x00E0 State.reset)).map (·.halt) = some false) := by
  unfold meets; decide

theorem witness_EveryStepKeepsTheInvariant :
    (placed 0x00E0 State.reset).Inv ∧ (after (placed 0x00E0 State.reset)).isSome = true := by decide

theorem witness_HostMovesKeepTheInvariant : Session.start.machine.Inv ∧
    ∃ h' r, Session.start.move (.setKeys 1) = .next (h', r) := ⟨by decide, _, _, rfl⟩

/-- Two ways to write the same two bytes. -/
theorem witness_CanonicalMemoriesThatReadAlikeAreEqual :
    (((Memory.mk defaultFont []).write 0x300 1).write 0x200 2).wf ∧ (((Memory.mk defaultFont []).write 0x200 2).write 0x300 1).wf ∧
    (((Memory.mk defaultFont []).write 0x300 1).write 0x200 2) = (((Memory.mk defaultFont []).write 0x200 2).write 0x300 1) := by decide

theorem witness_MemoryReadReturnsTheLastWrite : 0xFFF < 4096 ∧ 0x050 ≠ 0xFFF ∧ (Memory.mk defaultFont []).wf := by decide

/-- The last block whose store the next fetch can see. -/
theorem witness_StoreIsSeenByTheNextFetch :
    1 ≤ (1 : Reg).val ∧ ({ State.reset with pc := 0x0FFC#16, i := 0x0FFE#16 } : State).i = 0x0FFC#16 + 2 ∧
    (0x0FFE#16).toNat + (1 : Reg).val ≤ 0x0FFF := by decide

/-- Both clauses: a step that is no keypad instruction's, and an FX0A that takes a key. -/
theorem witness_KeysInfluenceOnlyTheKeypadInstructions :
    ((∀ x, instrAtPc (placed 0x00E0 State.reset) ≠ some (.skpVx x) ∧ instrAtPc (placed 0x00E0 State.reset) ≠ some (.sknpVx x) ∧
      instrAtPc (placed 0x00E0 State.reset) ≠ some (.ldVxK x)) ∧
      (after (placed 0x00E0 State.reset)).isSome = true) ∧
    (after (placed 0xF10A { State.reset with keys := 0x0080#16 })).map (·.keys) = some 0x0080#16 := by decide

theorem witness_SoundTimerInfluencesNothingElse : (after (placed 0x00E0 State.reset)).isSome = true := by decide

/-- Both clauses: a step that is no draw, and a draw. -/
theorem witness_FramebufferInfluencesOnlyDraws :
    (instrAtPc (placed 0x00E0 State.reset) = some .cls ∧ (after (placed 0x00E0 State.reset)).isSome = true) ∧
    (instrAtPc (placed 0xD011 State.reset) = some (.drwVxVyN 0 1 1) ∧ (after (placed 0xD011 State.reset)).isSome = true) := by
  decide

theorem witness_DirtyIsSetByDrawsOnlyAndClearedByNoStep :
    (after (placed 0xD010 State.reset)).map (·.dirty) = some true ∧
    (after (placed 0x00E0 State.reset)).map (·.dirty) = some false := by decide

/-- The clauses: a CXNN, a step that is none, and a halted engine that stands on a CXNN. -/
theorem witness_RandomBytesAreDrawnByRndOnly :
    (meets 0xC30F (.rndVxNn 3 0x0F) State.reset ∧ (after (placed 0xC30F State.reset)).map (·.draws) = some 1) ∧
    (meets 0x00E0 .cls State.reset ∧ (after (placed 0x00E0 State.reset)).map (·.draws) = some 0) ∧
    ((placed 0xC30F (State.reset.raise .stackOverflow)).halt = true ∧
      instrAtPc (placed 0xC30F (State.reset.raise .stackOverflow)) = some (.rndVxNn 3 0x0F) ∧
      (after (placed 0xC30F (State.reset.raise .stackOverflow))).map (·.draws) = some 0) := by
  unfold meets; decide

theorem witness_FrameOfControlTransfer : instrFamily (.callNnn 0x300) = .flow ∧
    (∃ t, exec (.callNnn 0x300) State.reset = .next t) ∧ ∃ t, exec .ret State.reset = .next t :=
  ⟨rfl, ⟨_, rfl⟩, _, rfl⟩

theorem witness_FrameOfLoadsAndAlu : instrFamily (.addVxVy 0 1) = .loadAlu ∧
    ∃ t, exec (.addVxVy 0 1) State.reset = .next t := ⟨rfl, _, rfl⟩

/-- A store that completes, a store that raises, and a form that stores nothing. -/
theorem witness_FrameOfIndexAndMemory : instrFamily (.ldMemVx 2) = .indexMemory ∧
    (∃ t, exec (.ldMemVx 2) State.reset = .next t ∧ t.halt = false) ∧
    (∃ t, exec (.ldBVx 0) { State.reset with i := 0xFFE#16 } = .next t ∧ t.halt = true) ∧
    instrFamily (.ldVxMem 2) = .indexMemory ∧ ∃ t, exec (.ldVxMem 2) State.reset = .next t :=
  ⟨rfl, ⟨_, rfl, rfl⟩, ⟨_, rfl, rfl⟩, rfl, _, rfl⟩

theorem witness_FrameOfDisplayKeypadTimerRandom :
    (instrFamily (.drwVxVyN 0 1 1) = .display ∧ ∃ t, exec (.drwVxVyN 0 1 1) State.reset = .next t) ∧
    (instrFamily (.ldVxK 0) = .input ∧ ∃ t, exec (.ldVxK 0) State.reset = .next t) := ⟨⟨rfl, _, rfl⟩, rfl, _, rfl⟩

theorem witness_JumpsSetThePc : fieldF 0x1FFF#16 = 0x1#4 ∧ fieldF 0xB300#16 = 0xB#4 := by decide

theorem witness_CallPushesTheReturnAddress : ({ State.reset with sp := 15 } : State).sp.val < 16 := by decide

theorem witness_ReturnPopsTheReturnAddress : 0 < ({ State.reset with sp := 1 } : State).sp.val := by decide

theorem witness_ReturnUndoesCall : State.reset.sp.val < 16 ∧
    ∃ t, exec (.callNnn 0x300) State.reset = .next t ∧ (withRegs [(0, 1)] t).stack = t.stack ∧
      (withRegs [(0, 1)] t).sp = t.sp := ⟨by decide, _, rfl, rfl, rfl⟩

/-- Both outcomes of a comparison. -/
theorem witness_SkipsOnRegisterAndImmediate : fieldF 0x3100#16 = 0x3#4 ∧ fieldF 0x4A05#16 = 0x4#4 ∧
    State.reset.reg 1 = 0x00 ∧ (withRegs [(1, 1)] State.reset).reg 1 ≠ 0x00 := by decide

theorem witness_SkipsOnTwoRegisters : State.reset.reg 1 = State.reset.reg 2 ∧
    (withRegs [(1, 1)] State.reset).reg 1 ≠ (withRegs [(1, 1)] State.reset).reg 2 := by decide

theorem witness_ImmediateLoadAndAdd : fieldF 0x60EA#16 = 0x6#4 ∧ fieldF 0x7F01#16 = 0x7#4 := by decide

theorem witness_AssignAndLogicWriteNoFlag : 0x82F0#16 &&& 0xF00F#16 = 0x8000#16 ∧ 0x8011#16 &&& 0xF00F#16 = 0x8001#16 ∧
    0x8012#16 &&& 0xF00F#16 = 0x8002#16 ∧ 0x8013#16 &&& 0xF00F#16 = 0x8003#16 := by decide

/-- The last destination below `VF`. -/
theorem witness_AddSetsTheCarry : (14 : Reg) ≠ Reg.VF := by decide
theorem witness_SubtractSetsNotBorrow : (14 : Reg) ≠ Reg.VF := by decide
theorem witness_ShiftsExpelOneBit : (0 : Reg) ≠ Reg.VF := by decide

theorem witness_IndexIsSetToAddressOrGlyph : fieldF 0xAFFF#16 = 0xA#4 ∧ 0xF529#16 &&& 0xF0FF#16 = 0xF029#16 := by decide

theorem witness_BcdStoresTheDecimalDigits : ({ State.reset with i := 0xFFD#16 } : State).i.toNat + 2 ≤ 0x0FFF := by decide

/-- The whole register file at the last legal address; a register inside the block, and addresses on both sides of it. -/
theorem witness_BulkStoreWritesTheRegisterBlock :
    ({ State.reset with i := 0xFF0#16 } : State).i.toNat + (15 : Reg).val ≤ 0x0FFF ∧ (15 : Reg) ≤ 15 ∧
    0xFEF < (0xFF0#16).toNat ∧ (0xFF0#16).toNat + (14 : Reg).val < 0xFFF := by decide

theorem witness_BulkLoadReadsTheRegisterBlock :
    ({ State.reset with i := 0xFF0#16 } : State).i.toNat + (15 : Reg).val ≤ 0x0FFF ∧ (15 : Reg) ≤ 15 ∧ (14 : Reg) < 15 := by
  decide

theorem witness_BulkLoadUndoesBulkStore :
    ({ State.reset with i := 0xFFD#16 } : State).i.toNat + (2 : Reg).val ≤ 0x0FFF ∧
    (∃ t, exec (.ldMemVx 2) { State.reset with i := 0xFFD#16 } = .next t ∧ t.halt = false) ∧ (2 : Reg) < 3 :=
  ⟨by decide, ⟨_, rfl, rfl⟩, by decide⟩

/-- The longest sprite at the last legal address, and a sprite of no rows beyond it; a pixel that is covered and on, one that
is covered and off, one that is not covered. -/
theorem witness_DrawTogglesTheSpriteSet :
    (0xFF1#16).toNat + (15#4).toNat - 1 ≤ 0x0FFF ∧ (0#4).toNat = 0 ∧
    SpriteCovers (withBytes 0x300 [0xC0] { State.reset with i := 0x300#16, fb := screen [(0, 2)] }) 0 1 1 1 0 ∧
    pixel (screen [(0, 2)]) 1 0 = true ∧
    SpriteCovers (withBytes 0x300 [0xC0] { State.reset with i := 0x300#16, fb := screen [(0, 2)] }) 0 1 1 0 0 ∧
    pixel (screen [(0, 2)]) 0 0 = false ∧
    ¬ SpriteCovers { State.reset with i := 0x300#16 } 0 1 0 5 5 :=
  ⟨by decide, by decide, ⟨0, 1, by decide, by decide, by decide, by decide, by decide⟩, by decide,
    ⟨0, 0, by decide, by decide, by decide, by decide, by decide⟩, by decide,
    fun ⟨row, _, h, _⟩ => absurd h (Nat.not_lt_zero row)⟩

theorem witness_DrawingTwiceRestoresTheFramebuffer : (0 : Reg) ≠ Reg.VF ∧ (1 : Reg) ≠ Reg.VF ∧
    (0xFFF#16).toNat + (1#4).toNat - 1 ≤ 0x0FFF ∧ ∃ t, exec (.drwVxVyN 0 1 1) { State.reset with i := 0xFFF#16 } = .next t :=
  ⟨by decide, by decide, by decide, _, rfl⟩

/-- Both clauses, at the key indices 15 and 16. -/
theorem witness_KeySkipsTestTheKey : ((withRegs [(1, 15)] State.reset).reg 1).toNat = (15 : Reg).val ∧
    15 < ((withRegs [(1, 16)] State.reset).reg 1).toNat := by decide

/-- Both clauses: key 15 alone, and no key. -/
theorem witness_KeyWaitTakesTheLowestKeyOrWaits :
    ({ State.reset with keys := 0x8000#16 } : State).keyPressed 15 = true ∧
    (∀ j : Reg, j < 15 → ({ State.reset with keys := 0x8000#16 } : State).keyPressed j = false) ∧
    (∀ k : Reg, State.reset.keyPressed k = false) := by decide

/-- A bit that the mask clears and one that it keeps. -/
theorem witness_RandomIsMaskedByNn : (0x0F#8).getLsbD 4 = false ∧ (0x0F#8).getLsbD 3 = true := by decide

theorem witness_ResetLeavesTheTableOfValues : 0x04F < 0x050 ∧ 79 < 80 ∧ 0x0A0 ≤ 0x0A0 ∧ 0xFFF < 4096 := by decide

/-- An image that fills memory, and one a byte longer. -/
theorem witness_LoadProgramCopiesTheImageOrFails : (List.replicate 0xE00 0xAA#8).length ≤ 0xE00 ∧
    0xE00 < (List.replicate 0xE01 0xAA#8).length ∧ 0x1FF < 0x200 ∧
    0x200 + ([0x12#8] : List Byte).length ≤ 0x201 :=
  ⟨(List.length_replicate ..).le, Nat.lt_of_lt_of_eq (by decide) (List.length_replicate ..).symm, by decide, by decide⟩

/-- The clauses by the phase of the host. -/
theorem witness_LoadIsAdmittedOnceAfterReset : (⟨State.reset, .stepped⟩ : Session).phase ≠ .fresh ∧
    (⟨State.reset, .loaded⟩ : Session).phase ≠ .fresh ∧ Session.start.phase = .fresh ∧
    (List.replicate 0xE00 0xAA#8).length ≤ 0xE00 ∧ 0xE00 < (List.replicate 0xE01 0xAA#8).length ∧
    ∃ h' r, Session.start.move .step = .next (h', r) := by
  exact ⟨by decide, by decide, rfl, (List.length_replicate ..).le,
    Nat.lt_of_lt_of_eq (by decide) (List.length_replicate ..).symm, _, _, rfl⟩

/-- Both situations. -/
theorem witness_SelfJumpAndKeyWaitAreStable :
    ((placed 0x1200 State.reset).halt = false ∧ (placed 0x1200 State.reset).SelfJump) ∧
    ((placed 0xF10A State.reset).halt = false ∧ (placed 0xF10A State.reset).AwaitingKey) :=
  ⟨⟨rfl, 0x200#12, by decide, by decide⟩, rfl, ⟨1, by decide⟩, by decide⟩

end Sys2Proof.Tests
end

section
/-! SUPPORT. What each instruction whose meaning branches can answer, as one case analysis per instruction: a raise, or
the one state it completes with. Every other instruction answers the one state its definition names. -/

namespace Sys2Proof.Machine

section
variable {s t : State}

theorem exec_ret_cases (h : exec .ret s = .next t) :
    (s.sp.val = 0 ∧ t = s.raise .stackUnderflow) ∨
    ∃ hsp : 0 < s.sp.val, t = { s with sp := ⟨s.sp.val - 1, by omega⟩, pc := s.stack[s.sp.val - 1] } := by
  rcases Nat.eq_zero_or_pos s.sp.val with hsp | hsp
  · rw [exec_ret_empty s hsp] at h; cases h; exact .inl ⟨hsp, rfl⟩
  · rw [exec_ret s hsp] at h; cases h; exact .inr ⟨hsp, rfl⟩

theorem exec_callNnn_cases {nnn : Addr} (h : exec (.callNnn nnn) s = .next t) :
    (s.sp.val = 16 ∧ t = s.raise .stackOverflow) ∨
    ∃ hsp : s.sp.val < 16, t = { s with
      stack := s.stack.set s.sp.val (s.pc + 2), sp := ⟨s.sp.val + 1, by omega⟩, pc := addrOperand nnn } := by
  rcases Nat.lt_or_ge s.sp.val 16 with hsp | hsp
  · rw [exec_callNnn s nnn hsp] at h; cases h; exact .inr ⟨hsp, rfl⟩
  · have hfull : s.sp.val = 16 := by omega
    rw [exec_callNnn_full s nnn hfull] at h; cases h; exact .inl ⟨hfull, rfl⟩

theorem exec_ldBVx_cases {x : Reg} (h : exec (.ldBVx x) s = .next t) :
    (0x0FFF < s.i.toNat + 2 ∧ t = s.raise .addressOutOfRange) ∨
    (s.i.toNat + 2 ≤ 0x0FFF ∧ t = (s.setMem (s.mem.writeBytes s.i.toNat (decimalDigits (s.reg x)))).advance) := by
  rcases Nat.lt_or_ge 0x0FFF (s.i.toNat + 2) with hr | hr
  · rw [exec_ldBVx_outside s x hr] at h; cases h; exact .inl ⟨hr, rfl⟩
  · rw [exec_ldBVx s x hr] at h; cases h; exact .inr ⟨hr, rfl⟩

theorem exec_ldMemVx_cases {x : Reg} (h : exec (.ldMemVx x) s = .next t) :
    (0x0FFF < s.i.toNat + x.val ∧ t = s.raise .addressOutOfRange) ∨
    (s.i.toNat + x.val ≤ 0x0FFF ∧
      t = (s.setMem (s.mem.writeBytes s.i.toNat (registerBytes s.v (blockSize x)))).advance) := by
  rcases Nat.lt_or_ge 0x0FFF (s.i.toNat + x.val) with hr | hr
  · rw [exec_ldMemVx_outside s x hr] at h; cases h; exact .inl ⟨hr, rfl⟩
  · rw [exec_ldMemVx s x hr] at h; cases h; exact .inr ⟨hr, rfl⟩

theorem exec_ldVxMem_cases {x : Reg} (h : exec (.ldVxMem x) s = .next t) :
    (0x0FFF < s.i.toNat + x.val ∧ t = s.raise .addressOutOfRange) ∨
    (s.i.toNat + x.val ≤ 0x0FFF ∧
      t = (s.setRegs (loadRegisters s.mem s.i.toNat (blockSize x) s.v)).advance) := by
  rcases Nat.lt_or_ge 0x0FFF (s.i.toNat + x.val) with hr | hr
  · rw [exec_ldVxMem_outside s x hr] at h; cases h; exact .inl ⟨hr, rfl⟩
  · rw [exec_ldVxMem s x hr] at h; cases h; exact .inr ⟨hr, rfl⟩

/-- With no row no address is checked (D23), so a draw that raises has one. -/
theorem exec_drwVxVyN_cases {x y : Reg} {n : Nibble} (h : exec (.drwVxVyN x y n) s = .next t) :
    ((1 ≤ n.toNat ∧ 0x0FFF < s.i.toNat + n.toNat - 1) ∧ t = s.raise .addressOutOfRange) ∨
    ((n.toNat = 0 ∨ s.i.toNat + n.toNat - 1 ≤ 0x0FFF) ∧
      t = (((s.setFb (drawSprite s x y n).fb).setFlag (drawSprite s x y n).hit).markDirty).advance) := by
  by_cases hr : n.toNat = 0 ∨ s.i.toNat + n.toNat - 1 ≤ 0x0FFF
  · rw [exec_drwVxVyN s x y n hr] at h; cases h; exact .inr ⟨hr, rfl⟩
  · have hout : 1 ≤ n.toNat ∧ 0x0FFF < s.i.toNat + n.toNat - 1 := by omega
    rw [exec_drwVxVyN_outside s x y n hout.1 hout.2] at h; cases h; exact .inl ⟨hout, rfl⟩

theorem exec_skpVx_cases {x : Reg} (h : exec (.skpVx x) s = .next t) :
    (15 < (s.reg x).toNat ∧ t = s.raise .addressOutOfRange) ∨
    ∃ k : Reg, (s.reg x).toNat = k.val ∧ t = s.skipIf (s.keyPressed k) := by
  rcases Nat.lt_or_ge 15 (s.reg x).toNat with hk | hk
  · rw [exec_skpVx_outside s x hk] at h; cases h; exact .inl ⟨hk, rfl⟩
  · rw [exec_skpVx s x ⟨_, Nat.lt_succ_of_le hk⟩ rfl] at h; cases h; exact .inr ⟨_, rfl, rfl⟩

theorem exec_sknpVx_cases {x : Reg} (h : exec (.sknpVx x) s = .next t) :
    (15 < (s.reg x).toNat ∧ t = s.raise .addressOutOfRange) ∨
    ∃ k : Reg, (s.reg x).toNat = k.val ∧ t = s.skipIf (!s.keyPressed k) := by
  rcases Nat.lt_or_ge 15 (s.reg x).toNat with hk | hk
  · rw [exec_sknpVx_outside s x hk] at h; cases h; exact .inl ⟨hk, rfl⟩
  · rw [exec_sknpVx s x ⟨_, Nat.lt_succ_of_le hk⟩ rfl] at h; cases h; exact .inr ⟨_, rfl, rfl⟩

theorem exec_ldVxK_cases {x : Reg} (h : exec (.ldVxK x) s = .next t) :
    ((∀ k : Reg, s.keyPressed k = false) ∧ t = s) ∨
    ∃ k : Reg, (s.keyPressed k = true ∧ ∀ j : Reg, j < k → s.keyPressed j = false) ∧
      t = (s.setReg x (BitVec.ofNat 8 k.val)).advance := by
  rcases hk : s.firstKey with - | k
  · have hnone := (State.firstKey_eq_none_iff s).1 hk
    rw [exec_ldVxK_waiting s x hnone] at h; cases h; exact .inl ⟨hnone, rfl⟩
  · have hfirst := (State.firstKey_eq_some_iff s k).1 hk
    rw [exec_ldVxK s x k hfirst.1 hfirst.2] at h; cases h; exact .inr ⟨k, hfirst, rfl⟩

end

end Sys2Proof.Machine
end

section
/-! SUPPORT. The frames of R43 from rules for the operations: `f.Keeps s t` says of two states what `Framed` says of an
instruction and the states around it, one rule gives it for each operation that writes a component `f` names, and
`Keeps.trans` puts the rules together. -/

namespace Sys2Proof.Machine

/-- From `s` to `t` nothing was written but `PC` and what `f` names: not `HALT`, not `CAUSE` either. -/
def Footprint.Keeps (f : Footprint) (s t : State) : Prop := f.Within s t ∧ t.halt = s.halt ∧ t.cause = s.cause

theorem framed_iff_keeps (i : Instr) (s t : State) : Framed i s t ↔ (footprint i s).Keeps s t := Iff.rfl

namespace Footprint

variable {f : Footprint} {s t u : State}

theorem Keeps.trans (hst : f.Keeps s t) (htu : f.Keeps t u) : f.Keeps s u := by
  obtain ⟨⟨regs, index, sp, entries, bytes, fb, dirty, dt, st, draws, keys, font⟩, halt, cause⟩ := hst
  obtain ⟨⟨regs', index', sp', entries', bytes', fb', dirty', dt', st', draws', keys', font'⟩, halt', cause'⟩ := htu
  exact ⟨⟨fun k hk => (regs' k hk).trans (regs k hk), fun h => (index' h).trans (index h),
    fun h => (sp' h).trans (sp h), fun k hk => (entries' k hk).trans (entries k hk),
    fun a ha => (bytes' a ha).trans (bytes a ha), fun h => (fb' h).trans (fb h), fun h => (dirty' h).trans (dirty h),
    fun h => (dt' h).trans (dt h), fun h => (st' h).trans (st h), fun h => (draws' h).trans (draws h),
    keys'.trans keys, font'.trans font⟩, halt'.trans halt, cause'.trans cause⟩

theorem keeps_refl : f.Keeps s s := by simp [Keeps, Within]

theorem keeps_setPc (a : Word) : f.Keeps s (s.setPc a) := by simp [Keeps, Within]

theorem keeps_advance : f.Keeps s s.advance := keeps_setPc _

theorem keeps_skipIf (c : Bool) : f.Keeps s (s.skipIf c) := by simp [Keeps, Within]

theorem keeps_setReg {x : Reg} (hx : f.regs x = true) (b : Byte) : f.Keeps s (s.setReg x b) := by
  have hne : ∀ k, f.regs k = false → k ≠ x := fun k hk hkx => by simp [hkx, hx] at hk
  simpa [Keeps, Within] using fun k hk hkx => absurd hkx (hne k hk)

theorem keeps_setFlag (hf : f.regs Reg.VF = true) (c : Bool) : f.Keeps s (s.setFlag c) := keeps_setReg hf _

theorem keeps_setRegs {v : Vector Byte 16} (hv : ∀ k, f.regs k = false → v[k] = s.reg k) :
    f.Keeps s (s.setRegs v) := by
  simpa [Keeps, Within] using hv

theorem keeps_setIndex (h : f.index = true) (a : Word) : f.Keeps s (s.setIndex a) := by simp [Keeps, Within, h]

theorem keeps_setDt (h : f.dt = true) (b : Byte) : f.Keeps s (s.setDt b) := by simp [Keeps, Within, h]

theorem keeps_setSt (h : f.st = true) (b : Byte) : f.Keeps s (s.setSt b) := by simp [Keeps, Within, h]

theorem keeps_setFb (h : f.fb = true) (fb : Framebuffer) : f.Keeps s (s.setFb fb) := by simp [Keeps, Within, h]

theorem keeps_markDirty (h : f.dirty = true) : f.Keeps s s.markDirty := by simp [Keeps, Within, h]

theorem keeps_nextDraw (h : f.draws = true) : f.Keeps s s.nextDraw := by simp [Keeps, Within, h]

/-- A block of bytes stored inside memory, where `f` says that one is. -/
theorem keeps_setMem_writeBytes {bs : List Byte} (hsize : bs.length = f.size) (hin : f.base + bs.length ≤ 4096) :
    f.Keeps s (s.setMem (s.mem.writeBytes f.base bs)) := by
  have hread : ∀ a, ¬(f.base ≤ a ∧ a < f.base + f.size) → (s.mem.writeBytes f.base bs).read a = s.mem.read a :=
    fun a ha => by rw [Memory.read_writeBytes bs s.mem f.base hin, hsize, if_neg ha]
  simpa [Keeps, Within] using hread

/-- A return: `SP` and no entry. -/
theorem keeps_setSp (h : f.sp = true) (n : Fin 17) : f.Keeps s { s with sp := n } := by
  simp [Keeps, Within, h, State.reg]

/-- A call: `SP` and the entry it indexes. -/
theorem keeps_setEntry {k : Fin 16} (hk : f.entries k = true) (a : Word) :
    f.Keeps s { s with stack := s.stack.set k a } := by
  have hne : ∀ j : Fin 16, f.entries j = false → k.val ≠ j.val := fun j hj hkj => by
    rw [← Fin.ext hkj, hk] at hj; cases hj
  have hget : ∀ j : Fin 16, f.entries j = false → (s.stack.set k.val a)[j.val] = s.stack[j.val] := fun j hj =>
    Vector.getElem_set_ne _ _ (hne j hj)
  simpa [Keeps, Within, State.reg] using hget

theorem keeps_result {x : Reg} (hx : f.regs x = true) (b : Byte) : f.Keeps s (s.result x b) :=
  (keeps_setReg hx b).trans keeps_advance

theorem keeps_flaggedResult {x : Reg} (hx : f.regs x = true) (hf : f.regs Reg.VF = true) (c : Bool) (b : Byte) :
    f.Keeps s (s.flaggedResult x c b) :=
  (keeps_setFlag hf c).trans (keeps_result hx b)

end Footprint

open Footprint

variable {i : Instr} {s t : State}

/-- `regFlag x` names both `x` and `VF`. -/
theorem regFlag_regs_self (x : Reg) : (Footprint.regFlag x).regs x = true := by simp [Footprint.regFlag]

theorem regFlag_regs_VF (x : Reg) : (Footprint.regFlag x).regs Reg.VF = true := by simp [Footprint.regFlag]

theorem framed_of_loadAlu (hi : instrFamily i = .loadAlu) (h : exec i s = .next t) : Framed i s t := by
  rw [framed_iff_keeps]
  cases i with
  | ldVxNn x _ | addVxNn x _ | ldVxVy x _ | orVxVy x _ | andVxVy x _ | xorVxVy x _ =>
    cases h; exact keeps_result (beq_self_eq_true x) _
  | addVxVy x _ | subVxVy x _ | shrVx x _ | subnVxVy x _ | shlVx x _ =>
    cases h; exact keeps_flaggedResult (regFlag_regs_self x) (regFlag_regs_VF x) _ _
  | _ => cases hi

theorem framed_ret_of_pop (hsp : 0 < s.sp.val) :
    Framed .ret s { s with sp := ⟨s.sp.val - 1, by omega⟩, pc := s.stack[s.sp.val - 1] } :=
  (keeps_setSp rfl ⟨s.sp.val - 1, by omega⟩).trans (keeps_setPc _)

theorem framed_callNnn_of_push (nnn : Addr) (hsp : s.sp.val < 16) :
    Framed (.callNnn nnn) s { s with
      stack := s.stack.set s.sp.val (s.pc + 2), sp := ⟨s.sp.val + 1, by omega⟩, pc := addrOperand nnn } :=
  (keeps_setEntry (k := ⟨s.sp.val, hsp⟩) (beq_self_eq_true s.sp.val) (s.pc + 2)).trans
    ((keeps_setSp rfl ⟨s.sp.val + 1, by omega⟩).trans (keeps_setPc _))

/-- The loaded block leaves the registers above `VX` (R195). -/
theorem loadRegisters_above (m : Memory) (base : Nat) (v : Vector Byte 16) {x k : Reg} (h : decide (k ≤ x) = false) :
    (loadRegisters m base (blockSize x) v)[k] = v[k] := by
  have hlt : ¬ k.val < blockSize x := fun hk => of_decide_eq_false h (Nat.lt_succ_iff.1 hk)
  rw [loadRegisters_getElem, if_neg hlt]

/-- Every instruction that answers either completes within its row of R43 or raises a cause and writes nothing else. -/
theorem framed_or_raised (h : exec i s = .next t) : Framed i s t ∨ ∃ c, c ≠ .none ∧ t = s.raise c := by
  cases i with
  | ldVxNn | addVxNn | ldVxVy | orVxVy | andVxVy | xorVxVy | addVxVy | subVxVy | shrVx | subnVxVy | shlVx =>
    exact .inl (framed_of_loadAlu rfl h)
  | jpNnn | jpV0Nnn => cases h; exact .inl (keeps_setPc _)
  | seVxNn | sneVxNn | seVxVy | sneVxVy => cases h; exact .inl (keeps_skipIf _)
  | ret =>
    rcases exec_ret_cases h with ⟨-, ht⟩ | ⟨hsp, rfl⟩
    · exact .inr ⟨_, by decide, ht⟩
    · exact .inl (framed_ret_of_pop hsp)
  | callNnn nnn =>
    rcases exec_callNnn_cases h with ⟨-, ht⟩ | ⟨hsp, rfl⟩
    · exact .inr ⟨_, by decide, ht⟩
    · exact .inl (framed_callNnn_of_push nnn hsp)
  | ldINnn | ldFVx => cases h; exact .inl ((keeps_setIndex rfl _).trans keeps_advance)
  | addIVx =>
    cases h
    exact .inl ((keeps_setIndex rfl _).trans ((keeps_setFlag (beq_self_eq_true Reg.VF) _).trans keeps_advance))
  | ldBVx =>
    rcases exec_ldBVx_cases h with ⟨-, ht⟩ | ⟨hin, rfl⟩
    · exact .inr ⟨_, by decide, ht⟩
    · refine .inl ((keeps_setMem_writeBytes (decimalDigits_length _) ?_).trans keeps_advance)
      rw [decimalDigits_length]; exact Nat.succ_le_succ hin
  | ldMemVx =>
    rcases exec_ldMemVx_cases h with ⟨-, ht⟩ | ⟨hin, rfl⟩
    · exact .inr ⟨_, by decide, ht⟩
    · refine .inl ((keeps_setMem_writeBytes (registerBytes_length _ _) ?_).trans keeps_advance)
      rw [registerBytes_length]; exact Nat.succ_le_succ hin
  | ldVxMem =>
    rcases exec_ldVxMem_cases h with ⟨-, ht⟩ | ⟨-, rfl⟩
    · exact .inr ⟨_, by decide, ht⟩
    · exact .inl ((keeps_setRegs fun k hk => loadRegisters_above _ _ _ hk).trans keeps_advance)
  | cls => cases h; exact .inl ((keeps_setFb rfl _).trans keeps_advance)
  | drwVxVyN =>
    rcases exec_drwVxVyN_cases h with ⟨-, ht⟩ | ⟨-, rfl⟩
    · exact .inr ⟨_, by decide, ht⟩
    · exact .inl ((keeps_setFb rfl _).trans ((keeps_setFlag (beq_self_eq_true Reg.VF) _).trans
        ((keeps_markDirty rfl).trans keeps_advance)))
  | skpVx =>
    rcases exec_skpVx_cases h with ⟨-, ht⟩ | ⟨k, -, rfl⟩
    · exact .inr ⟨_, by decide, ht⟩
    · exact .inl (keeps_skipIf _)
  | sknpVx =>
    rcases exec_sknpVx_cases h with ⟨-, ht⟩ | ⟨k, -, rfl⟩
    · exact .inr ⟨_, by decide, ht⟩
    · exact .inl (keeps_skipIf _)
  | ldVxK x =>
    rcases exec_ldVxK_cases h with ⟨-, rfl⟩ | ⟨k, -, rfl⟩
    · exact .inl keeps_refl
    · exact .inl (keeps_result (beq_self_eq_true x) _)
  | ldVxDt x => cases h; exact .inl (keeps_result (beq_self_eq_true x) _)
  | ldDtVx => cases h; exact .inl ((keeps_setDt rfl _).trans keeps_advance)
  | ldStVx => cases h; exact .inl ((keeps_setSt rfl _).trans keeps_advance)
  | rndVxNn x =>
    cases h
    exact .inl ((keeps_setReg (beq_self_eq_true x) _).trans ((keeps_nextDraw rfl).trans keeps_advance))

/-- The same with the cause read off the state, as the frame obligations of the spec's families say it. -/
theorem framed_or_eq_raise (h : exec i s = .next t) : Framed i s t ∨ t = s.raise t.cause := by
  rcases framed_or_raised h with hf | ⟨c, -, rfl⟩
  · exact .inl hf
  · exact .inr rfl

/-! What the row of an instruction in R43 does not name is kept, when the instruction raises too. -/

theorem within_footprint_of_exec (h : exec i s = .next t) : (footprint i s).Within s t := by
  rcases framed_or_raised h with ⟨hw, -⟩ | ⟨c, -, rfl⟩
  · exact hw
  · simp [Footprint.Within]

theorem exec_index_eq (h : exec i s = .next t) (hi : (footprint i s).index = false) : t.i = s.i := by
  obtain ⟨-, index, -⟩ := within_footprint_of_exec h
  exact index hi

theorem exec_stack_eq (h : exec i s = .next t) {k : Fin 16} (hk : (footprint i s).entries k = false) :
    t.stack[k] = s.stack[k] := by
  obtain ⟨-, -, -, entries, -⟩ := within_footprint_of_exec h
  exact entries k hk

theorem exec_dirty_eq (h : exec i s = .next t) (hd : (footprint i s).dirty = false) : t.dirty = s.dirty := by
  obtain ⟨-, -, -, -, -, -, dirty, -⟩ := within_footprint_of_exec h
  exact dirty hd

theorem exec_keys_font_eq (h : exec i s = .next t) : t.keys = s.keys ∧ t.mem.font = s.mem.font := by
  obtain ⟨-, -, -, -, -, -, -, -, -, -, keys_font⟩ := within_footprint_of_exec h
  exact keys_font

end Sys2Proof.Machine
end

section
/-! PROOFS. The frames of R43, family by family. -/

namespace Sys2Proof.Machine

/-- Settles O27, from the frame that holds of every instruction. -/
theorem frameOfControlTransfer : Obligations.FrameOfControlTransfer :=
  fun _ _ _ _ h => framed_or_eq_raise h

/-- Settles O28: no form of the family branches. -/
theorem frameOfLoadsAndAlu : Obligations.FrameOfLoadsAndAlu :=
  fun _ _ _ hi h => framed_of_loadAlu hi h

/-- Settles O29, from the frame that holds of every instruction. -/
theorem frameOfIndexAndMemory : Obligations.FrameOfIndexAndMemory :=
  fun _ _ _ _ h => framed_or_eq_raise h

/-- Settles O30, from the frame that holds of every instruction. -/
theorem frameOfDisplayKeypadTimerRandom : Obligations.FrameOfDisplayKeypadTimerRandom :=
  fun _ _ _ _ h => framed_or_eq_raise h

end Sys2Proof.Machine
end

section
/-! PROOFS. The invariant of the reachable states (R24, R27, R28, R251), component by component: what an executed
instruction leaves in memory, in `I`, in the stack and in `PC`. -/

namespace Sys2Proof.Machine

variable {i : Instr} {s t : State}

/-! ### What an instruction leaves -/

/-- Memory is left as data, or with one block of bytes written to it. -/
theorem exec_mem_cases (h : exec i s = .next t) : t.mem = s.mem ∨ ∃ a bs, t.mem = s.mem.writeBytes a bs := by
  cases i with
  | ldBVx =>
    rcases exec_ldBVx_cases h with ⟨-, rfl⟩ | ⟨-, rfl⟩
    · exact .inl rfl
    · exact .inr ⟨_, _, rfl⟩
  | ldMemVx =>
    rcases exec_ldMemVx_cases h with ⟨-, rfl⟩ | ⟨-, rfl⟩
    · exact .inl rfl
    · exact .inr ⟨_, _, rfl⟩
  | ret => rcases exec_ret_cases h with ⟨-, rfl⟩ | ⟨-, rfl⟩ <;> exact .inl rfl
  | callNnn => rcases exec_callNnn_cases h with ⟨-, rfl⟩ | ⟨-, rfl⟩ <;> exact .inl rfl
  | ldVxMem => rcases exec_ldVxMem_cases h with ⟨-, rfl⟩ | ⟨-, rfl⟩ <;> exact .inl rfl
  | drwVxVyN => rcases exec_drwVxVyN_cases h with ⟨-, rfl⟩ | ⟨-, rfl⟩ <;> exact .inl rfl
  | skpVx => rcases exec_skpVx_cases h with ⟨-, rfl⟩ | ⟨k, -, rfl⟩ <;> simp
  | sknpVx => rcases exec_sknpVx_cases h with ⟨-, rfl⟩ | ⟨k, -, rfl⟩ <;> simp
  | ldVxK => rcases exec_ldVxK_cases h with ⟨-, rfl⟩ | ⟨k, -, rfl⟩ <;> exact .inl rfl
  | seVxNn | sneVxNn | seVxVy | sneVxVy => cases h; exact .inl (State.skipIf_mem s _)
  | _ => cases h; exact .inl rfl

theorem exec_mem_wf (h : exec i s = .next t) (hm : s.mem.wf) : t.mem.wf := by
  rcases exec_mem_cases h with ht | ⟨a, bs, ht⟩
  · rwa [ht]
  · rw [ht]; exact Memory.wf_writeBytes bs hm a

/-- `I` is written only by a 12-bit address, a sum masked to 12 bits, or the address of a glyph (R27). -/
theorem exec_index_le (h : exec i s = .next t) (hi : s.i.toNat ≤ 0x0FFF) : t.i.toNat ≤ 0x0FFF := by
  cases i with
  | ldINnn nnn =>
    cases h
    have : (addrOperand nnn).toNat ≤ 0x0FFF := by rw [addrOperand_toNat]; omega
    exact this
  | addIVx x =>
    cases h
    have : (BitVec.ofNat 16 (indexSum s.i (s.reg x) % 4096)).toNat ≤ 0x0FFF := by
      rw [BitVec.toNat_ofNat]; omega
    exact this
  | ldFVx x =>
    cases h
    have : (glyphAddress (s.reg x)).toNat ≤ 0x0FFF := by rw [glyphAddress_toNat]; omega
    exact this
  | _ => rw [exec_index_eq h rfl]; exact hi

/-- The one entry ever written is the address after a call that was fetched from memory (R28). -/
theorem exec_stack_le (h : exec i s = .next t) (hpc : s.pc.toNat ≤ 0x0FFE)
    (hst : ∀ k : Fin 16, s.stack[k].toNat ≤ 0x1000) (k : Fin 16) : t.stack[k].toNat ≤ 0x1000 := by
  cases i with
  | callNnn nnn =>
    rcases exec_callNnn_cases h with ⟨-, rfl⟩ | ⟨hsp, rfl⟩
    · exact hst k
    · have hret : (s.pc + 2).toNat ≤ 0x1000 := by bv_omega
      simp only [Fin.getElem_fin, Vector.getElem_set]
      split
      · exact hret
      · exact hst k
  | _ => rw [exec_stack_eq h rfl]; exact hst k

/-- `PC` stays, goes on by 2 or 4, or takes a jump target or a return address (R24). -/
theorem exec_pc_le (h : exec i s = .next t) (hpc : s.pc.toNat ≤ 0x0FFE)
    (hst : ∀ k : Fin 16, s.stack[k].toNat ≤ 0x1000) : t.pc.toNat ≤ 0x10FE := by
  have stay : s.pc.toNat ≤ 0x10FE := by omega
  have advance : (s.pc + 2).toNat ≤ 0x10FE := by bv_omega
  have skip : ∀ c, (s.skipIf c).pc.toNat ≤ 0x10FE := fun c => by rw [State.skipIf_pc]; split <;> bv_omega
  have jump : ∀ nnn, (addrOperand nnn).toNat ≤ 0x10FE := fun nnn => by rw [addrOperand_toNat]; omega
  cases i with
  | ret =>
    rcases exec_ret_cases h with ⟨-, rfl⟩ | ⟨hsp, rfl⟩
    · exact stay
    · exact (hst ⟨s.sp.val - 1, by omega⟩).trans (by decide)
  | callNnn nnn =>
    rcases exec_callNnn_cases h with ⟨-, rfl⟩ | ⟨-, rfl⟩
    · exact stay
    · exact jump nnn
  | jpNnn nnn => cases h; exact jump nnn
  | jpV0Nnn nnn =>
    cases h
    have : (offsetTarget nnn (s.reg 0)).toNat ≤ 0x10FE := by rw [offsetTarget_toNat]; omega
    exact this
  | seVxNn | sneVxNn | seVxVy | sneVxVy => cases h; exact skip _
  | skpVx =>
    rcases exec_skpVx_cases h with ⟨-, rfl⟩ | ⟨k, -, rfl⟩
    · exact stay
    · exact skip _
  | sknpVx =>
    rcases exec_sknpVx_cases h with ⟨-, rfl⟩ | ⟨k, -, rfl⟩
    · exact stay
    · exact skip _
  | ldVxK =>
    rcases exec_ldVxK_cases h with ⟨-, rfl⟩ | ⟨k, -, rfl⟩
    · exact stay
    · exact advance
  | ldBVx =>
    rcases exec_ldBVx_cases h with ⟨-, rfl⟩ | ⟨-, rfl⟩
    · exact stay
    · exact advance
  | ldMemVx =>
    rcases exec_ldMemVx_cases h with ⟨-, rfl⟩ | ⟨-, rfl⟩
    · exact stay
    · exact advance
  | ldVxMem =>
    rcases exec_ldVxMem_cases h with ⟨-, rfl⟩ | ⟨-, rfl⟩
    · exact stay
    · exact advance
  | drwVxVyN =>
    rcases exec_drwVxVyN_cases h with ⟨-, rfl⟩ | ⟨-, rfl⟩
    · exact stay
    · exact advance
  | _ => cases h; exact advance

/-- `HALT` and `CAUSE` are both left alone or both written, and a raised cause is not the code 0 (R251). -/
theorem exec_halt_iff_cause (h : exec i s = .next t) (hs : s.halt = true ↔ s.cause ≠ .none) :
    t.halt = true ↔ t.cause ≠ .none := by
  rcases framed_or_raised h with ⟨-, halt, cause⟩ | ⟨c, hc, rfl⟩
  · rwa [halt, cause]
  · simpa using hc

/-! ### The invariant -/

theorem exec_keeps_inv (h : exec i s = .next t) (hs : s.Inv) (hpc : s.pc.toNat ≤ 0x0FFE) : t.Inv := by
  obtain ⟨hmem, hindex, -, hstack, hcause⟩ := hs
  exact ⟨exec_mem_wf h hmem, exec_index_le h hindex, exec_pc_le h hpc hstack, exec_stack_le h hpc hstack,
    exec_halt_iff_cause h hcause⟩

theorem raise_keeps_inv {c : Cause} (hs : s.Inv) (hc : c ≠ .none) : (s.raise c).Inv := by
  obtain ⟨hmem, hindex, hpc, hstack, -⟩ := hs
  exact ⟨hmem, hindex, hpc, hstack, iff_of_true rfl hc⟩

theorem skipUnknown_keeps_inv (hs : s.Inv) (hpc : s.pc.toNat ≤ 0x0FFE) : s.skipUnknown.Inv := by
  obtain ⟨hmem, hindex, -, hstack, hcause⟩ := hs
  exact ⟨hmem, hindex, by rw [State.skipUnknown_pc]; bv_omega, hstack, hcause⟩

/-- The tick writes no component the invariant speaks of. -/
theorem tick_inv_iff : s.tick.Inv ↔ s.Inv := Iff.rfl

/-- An instruction is fetched from below the last byte of memory (R122). -/
theorem pc_le_of_fetchWord {w : Word} (hf : fetchWord s = some w) : s.pc.toNat ≤ 0x0FFE := by
  obtain ⟨hpc, -⟩ := (fetchWord_eq_some_iff s w).1 hf
  omega

theorem step_keeps_inv (h : step s = .next t) (hs : s.Inv) : t.Inv := by
  rcases step_cases h with ⟨-, rfl⟩ | ⟨-, -, rfl⟩ | ⟨w, -, hf, -, rfl⟩ | ⟨w, i, u, -, hf, -, he, rfl⟩
  · exact hs
  · exact raise_keeps_inv hs (by decide)
  · exact tick_inv_iff.2 (skipUnknown_keeps_inv hs (pc_le_of_fetchWord hf))
  · have hu : u.Inv := exec_keeps_inv he hs (pc_le_of_fetchWord hf)
    split
    · exact hu
    · exact tick_inv_iff.2 hu

theorem resetWith_inv (font : Font) : (State.resetWith font).Inv :=
  ⟨Memory.wf_empty font, Nat.zero_le _, show (0x0200#16).toNat ≤ 0x10FE by decide,
    fun k => by simp [State.resetWith], by simp [State.resetWith]⟩

/-- Settles O16, by the ways a step answers: halted, no word, unknown word, executed instruction. -/
theorem everyStepKeepsTheInvariant : Obligations.EveryStepKeepsTheInvariant :=
  fun _ _ hs h => step_keeps_inv h hs

/-- Settles O17: nothing is listed in memory, and every other component of the invariant is 0 or 0x200. -/
theorem invariantHoldsAtReset : Obligations.InvariantHoldsAtReset :=
  ⟨resetWith_inv defaultFont, resetWith_inv⟩

/-- Settles O56, component by component. -/
theorem resetLeavesTheTableOfValues : Obligations.ResetLeavesTheTableOfValues := by
  refine ⟨rfl, ?_⟩
  rintro font _ rfl
  exact ⟨fun a ha => Memory.read_empty_of_not_font font a (.inl ha), Memory.read_empty_font font,
    fun a ha _ => Memory.read_empty_of_not_font font a (.inr ha), fun k => by simp [State.reg, State.resetWith],
    rfl, rfl, rfl, fun k => by simp [State.resetWith], rfl, rfl, pixel_clearFramebuffer, rfl, rfl, rfl, rfl⟩

end Sys2Proof.Machine
end

section
/-! PROOFS. Which components influence which (R31 to R34, R43). The keypad, `ST` and the framebuffer are replaced all at
once: an instruction that reads none of those replaced answers the same state but for what it holds in these three. -/

namespace Sys2Proof.Machine

/-- `s` with other keys, another `ST` and another framebuffer. -/
def State.withHidden (s : State) (keys : BitVec 16) (st : Byte) (fb : Framebuffer) : State :=
  { s with keys := keys, st := st, fb := fb }

/-- Executed with other keys, another `ST` and another framebuffer, `i` answers the `t` that it answers in `s` but for
these three; `ST` and the framebuffer are those of `t` where they were not replaced. -/
def AnswersAlike (i : Instr) (s t : State) (keys : BitVec 16) (st : Byte) (fb : Framebuffer) : Prop :=
  ∃ st' fb', exec i (s.withHidden keys st fb) = .next (t.withHidden keys st' fb') ∧
    (st = s.st → st' = t.st) ∧ (fb = s.fb → fb' = t.fb)

variable {i : Instr} {s t : State} {keys : BitVec 16} {st : Byte} {fb : Framebuffer}

theorem withHidden_skipIf (c : Bool) :
    (s.withHidden keys st fb).skipIf c = (s.skipIf c).withHidden keys st fb := by cases c <;> rfl

/-- An instruction that leaves `ST` and the framebuffer alone. -/
theorem answersAlike_of_exec_eq (h : exec i (s.withHidden keys st fb) = .next (t.withHidden keys st fb))
    (hst : t.st = s.st) (hfb : t.fb = s.fb) : AnswersAlike i s t keys st fb :=
  ⟨st, fb, h, fun e => e.trans hst.symm, fun e => e.trans hfb.symm⟩

theorem answersAlike_of_skipIf {c : Bool}
    (h : exec i (s.withHidden keys st fb) = .next ((s.withHidden keys st fb).skipIf c)) :
    AnswersAlike i s (s.skipIf c) keys st fb :=
  answersAlike_of_exec_eq (h.trans (congrArg _ (withHidden_skipIf c))) (State.skipIf_st s c) (State.skipIf_fb s c)

/-- Only EX9E, EXA1 and FX0A read the keys, only DXYN reads the framebuffer, and nothing reads `ST` (R43). -/
theorem exec_answersAlike (h : exec i s = .next t)
    (hkeys : keys = s.keys ∨ ∀ x, i ≠ .skpVx x ∧ i ≠ .sknpVx x ∧ i ≠ .ldVxK x)
    (hfb : fb = s.fb ∨ ∀ x y n, i ≠ .drwVxVyN x y n) : AnswersAlike i s t keys st fb := by
  cases i with
  | cls => cases h; exact ⟨st, clearFramebuffer, rfl, id, fun _ => rfl⟩
  | ldStVx x => cases h; exact ⟨s.reg x, fb, rfl, fun _ => rfl, id⟩
  | seVxNn | sneVxNn | seVxVy | sneVxVy => cases h; exact answersAlike_of_skipIf rfl
  | ret =>
    rcases exec_ret_cases h with ⟨hsp, rfl⟩ | ⟨hsp, rfl⟩
    · exact answersAlike_of_exec_eq (exec_ret_empty _ hsp) rfl rfl
    · exact answersAlike_of_exec_eq (exec_ret (s.withHidden keys st fb) hsp) rfl rfl
  | callNnn nnn =>
    rcases exec_callNnn_cases h with ⟨hsp, rfl⟩ | ⟨hsp, rfl⟩
    · exact answersAlike_of_exec_eq (exec_callNnn_full _ nnn hsp) rfl rfl
    · exact answersAlike_of_exec_eq (exec_callNnn (s.withHidden keys st fb) nnn hsp) rfl rfl
  | ldBVx x =>
    rcases exec_ldBVx_cases h with ⟨hr, rfl⟩ | ⟨hr, rfl⟩
    · exact answersAlike_of_exec_eq (exec_ldBVx_outside _ x hr) rfl rfl
    · exact answersAlike_of_exec_eq (exec_ldBVx _ x hr) rfl rfl
  | ldMemVx x =>
    rcases exec_ldMemVx_cases h with ⟨hr, rfl⟩ | ⟨hr, rfl⟩
    · exact answersAlike_of_exec_eq (exec_ldMemVx_outside _ x hr) rfl rfl
    · exact answersAlike_of_exec_eq (exec_ldMemVx _ x hr) rfl rfl
  | ldVxMem x =>
    rcases exec_ldVxMem_cases h with ⟨hr, rfl⟩ | ⟨hr, rfl⟩
    · exact answersAlike_of_exec_eq (exec_ldVxMem_outside _ x hr) rfl rfl
    · exact answersAlike_of_exec_eq (exec_ldVxMem _ x hr) rfl rfl
  | drwVxVyN x y n =>
    obtain rfl : fb = s.fb := hfb.resolve_right fun hne => hne x y n rfl
    rcases exec_drwVxVyN_cases h with ⟨⟨hn, hr⟩, rfl⟩ | ⟨hr, rfl⟩
    · exact answersAlike_of_exec_eq (exec_drwVxVyN_outside _ x y n hn hr) rfl rfl
    · exact ⟨st, (drawSprite s x y n).fb, exec_drwVxVyN _ x y n hr, id, fun _ => rfl⟩
  | skpVx x =>
    obtain rfl : keys = s.keys := hkeys.resolve_right fun hne => (hne x).1 rfl
    rcases exec_skpVx_cases h with ⟨hk, rfl⟩ | ⟨k, hk, rfl⟩
    · exact answersAlike_of_exec_eq (exec_skpVx_outside _ x hk) rfl rfl
    · exact answersAlike_of_skipIf (exec_skpVx _ x k hk)
  | sknpVx x =>
    obtain rfl : keys = s.keys := hkeys.resolve_right fun hne => (hne x).2.1 rfl
    rcases exec_sknpVx_cases h with ⟨hk, rfl⟩ | ⟨k, hk, rfl⟩
    · exact answersAlike_of_exec_eq (exec_sknpVx_outside _ x hk) rfl rfl
    · exact answersAlike_of_skipIf (exec_sknpVx _ x k hk)
  | ldVxK x =>
    obtain rfl : keys = s.keys := hkeys.resolve_right fun hne => (hne x).2.2 rfl
    rcases exec_ldVxK_cases h with ⟨hk, rfl⟩ | ⟨k, ⟨hk, hj⟩, rfl⟩
    · exact answersAlike_of_exec_eq (exec_ldVxK_waiting _ x hk) rfl rfl
    · exact answersAlike_of_exec_eq (exec_ldVxK _ x k hk hj) rfl rfl
  | _ => cases h; exact answersAlike_of_exec_eq rfl rfl rfl

/-- The end of a step, from two states that differ in the keys, `ST` and the framebuffer at most. -/
theorem finishStep_withHidden (t : State) (keys : BitVec 16) (st : Byte) (fb : Framebuffer) :
    ∃ st', finishStep (t.withHidden keys st fb) = ((finishStep t).1.withHidden keys st' fb, (finishStep t).2) ∧
      (st = t.st → st' = (finishStep t).1.st) := by
  unfold finishStep
  rcases hh : t.halt with - | -
  · exact ⟨countDown st, by simp [State.withHidden, hh, State.tick], by simp +contextual⟩
  · exact ⟨st, by simp [State.withHidden, hh], by simp⟩

/-- The same of a whole step, its status included. -/
theorem cycle_withHidden {status : Status} (h : cycle s = .next (t, status))
    (hkeys : keys = s.keys ∨ ∀ x,
      instrAtPc s ≠ some (.skpVx x) ∧ instrAtPc s ≠ some (.sknpVx x) ∧ instrAtPc s ≠ some (.ldVxK x))
    (hfb : fb = s.fb ∨ s.halt = true ∨ ∀ x y n, instrAtPc s ≠ some (.drwVxVyN x y n)) :
    ∃ st' fb', cycle (s.withHidden keys st fb) = .next (t.withHidden keys st' fb', status) ∧
      (st = s.st → st' = t.st) ∧ (fb = s.fb → fb' = t.fb) := by
  rcases cycle_cases h with
    ⟨hh, rfl, rfl⟩ | ⟨hh, hf, rfl, rfl⟩ | ⟨w, hh, hf, hd, rfl, rfl⟩ | ⟨w, i, u, hh, hf, hd, he, hfin⟩
  · exact ⟨st, fb, cycle_of_halted hh, id, id⟩
  · exact ⟨st, fb, cycle_of_no_word hh hf, id, id⟩
  · exact ⟨countDown st, fb, cycle_of_unknown hh hf hd, fun e => congrArg countDown e, id⟩
  · have hi : instrAtPc s = some i := (instrAtPc_of_fetch hf).trans hd
    simp only [hi, ne_eq, Option.some.injEq] at hkeys hfb
    obtain ⟨st₁, fb₁, he', hst₁, hfb₁⟩ :=
      exec_answersAlike (st := st) he hkeys (hfb.imp_right fun hne => hne.resolve_left (by simp [hh]))
    obtain ⟨st₂, hfin', hst₂⟩ := finishStep_withHidden u keys st₁ fb₁
    obtain ⟨rfl, rfl⟩ := Prod.mk.inj hfin
    have hfbu : (finishStep u).1.fb = u.fb := by rw [finishStep_fst]; split <;> rfl
    refine ⟨st₂, fb₁, ?_, fun e => hst₂ (hst₁ e), fun e => (hfb₁ e).trans hfbu.symm⟩
    exact (cycle_of_exec (s := s.withHidden keys st fb) hh hf hd he').trans (congrArg _ hfin')

/-! ### The keypad, `ST`, the framebuffer -/

/-- No step writes the keys or the engine's `FONT` (R34, R42). -/
theorem step_keys_font_eq (h : step s = .next t) : t.keys = s.keys ∧ t.mem.font = s.mem.font := by
  rcases step_cases h with ⟨-, rfl⟩ | ⟨-, -, rfl⟩ | ⟨w, -, -, -, rfl⟩ | ⟨w, i, u, -, -, -, he, rfl⟩
  · exact ⟨rfl, rfl⟩
  · exact ⟨rfl, rfl⟩
  · exact ⟨rfl, rfl⟩
  · have hu := exec_keys_font_eq he
    split
    · exact hu
    · exact hu

/-- Settles O22: no instruction but the three reads the keys, and the rows of R43 name neither them nor `FONT`. -/
theorem keysInfluenceOnlyTheKeypadInstructions : Obligations.KeysInfluenceOnlyTheKeypadInstructions := by
  refine ⟨fun s t k hkeys h => ?_, fun s t h => step_keys_font_eq h⟩
  obtain ⟨status, hc⟩ := step_eq_next_iff.1 h
  obtain ⟨st', fb', hc', hst, hfb⟩ := cycle_withHidden (st := s.st) hc (.inr hkeys) (.inl rfl)
  obtain rfl := hst rfl
  obtain rfl := hfb rfl
  exact step_of_cycle hc'

/-- Settles O23: no instruction reads `ST`. -/
theorem soundTimerInfluencesNothingElse : Obligations.SoundTimerInfluencesNothingElse := by
  intro s t b h
  obtain ⟨status, hc⟩ := step_eq_next_iff.1 h
  obtain ⟨st', fb', hc', -, hfb⟩ := cycle_withHidden (st := b) hc (.inl rfl) (.inl rfl)
  obtain rfl := hfb rfl
  have ht : t.withHidden s.keys st' t.fb = { t with st := st' } := by rw [← (step_keys_font_eq h).1]; rfl
  rw [ht] at hc'
  exact ⟨st', step_of_cycle hc', (stepStatus_of_cycle hc').trans (stepStatus_of_cycle hc).symm⟩

theorem step_with_fb_of_no_draw (fb : Framebuffer) (h : step s = .next t)
    (hdraw : s.halt = true ∨ ∀ x y n, instrAtPc s ≠ some (.drwVxVyN x y n)) :
    ∃ fb', step { s with fb := fb } = .next { t with fb := fb' } := by
  obtain ⟨status, hc⟩ := step_eq_next_iff.1 h
  obtain ⟨st', fb', hc', hst, -⟩ := cycle_withHidden (st := s.st) (fb := fb) hc (.inl rfl) (.inr hdraw)
  obtain rfl := hst rfl
  have ht : t.withHidden s.keys t.st fb' = { t with fb := fb' } := by rw [← (step_keys_font_eq h).1]; rfl
  rw [ht] at hc'
  exact ⟨fb', step_of_cycle hc'⟩

/-- A draw on another framebuffer raises as before, or leaves another framebuffer and another flag (R211). -/
theorem exec_drwVxVyN_with_fb {x y : Reg} {n : Nibble} (fb : Framebuffer) (h : exec (.drwVxVyN x y n) s = .next t) :
    ∃ fb' f, exec (.drwVxVyN x y n) { s with fb := fb } = .next { t with fb := fb', v := t.v.set 15 f } := by
  rcases exec_drwVxVyN_cases h with ⟨⟨hn, hr⟩, rfl⟩ | ⟨hr, rfl⟩
  · refine ⟨fb, s.v[15], ?_⟩
    rw [exec_drwVxVyN_outside { s with fb := fb } x y n hn hr]
    simp [State.raise]
  · refine ⟨(drawSprite { s with fb := fb } x y n).fb, flagByte (drawSprite { s with fb := fb } x y n).hit, ?_⟩
    rw [exec_drwVxVyN { s with fb := fb } x y n hr]
    simp [State.setFb, State.setFlag, State.setReg, State.markDirty, State.advance, State.setPc]

/-- The step of an engine that is not halted, from the instruction at its `PC`. -/
theorem exec_of_step (h : step s = .next t) (hh : s.halt = false) (hi : instrAtPc s = some i) :
    ∃ w u, fetchWord s = some w ∧ decode w = some i ∧ exec i s = .next u ∧
      t = if u.halt = true then u else u.tick := by
  obtain ⟨w, hf, hd⟩ := Option.bind_eq_some_iff.1 hi
  rcases step_cases h with ⟨hh', -⟩ | ⟨-, hf', -⟩ | ⟨w', -, hf', hd', -⟩ | ⟨w', j, u, -, hf', hd', he, ht⟩
  · simp [hh] at hh'
  · simp [hf] at hf'
  · obtain rfl : w = w' := by simpa [hf] using hf'
    simp [hd] at hd'
  · obtain rfl : w = w' := by simpa [hf] using hf'
    obtain rfl : i = j := by simpa [hd] using hd'
    exact ⟨w, u, hf, hd, he, ht⟩

/-- A draw's step on another framebuffer. -/
theorem step_drwVxVyN_with_fb {x y : Reg} {n : Nibble} (fb : Framebuffer) (h : step s = .next t)
    (hh : s.halt = false) (hi : instrAtPc s = some (.drwVxVyN x y n)) :
    ∃ fb' f, step { s with fb := fb } = .next { t with fb := fb', v := t.v.set 15 f } := by
  obtain ⟨w, u, hf, hd, he, rfl⟩ := exec_of_step h hh hi
  obtain ⟨fb', f, he'⟩ := exec_drwVxVyN_with_fb fb he
  refine ⟨fb', f, (step_of_exec (s := { s with fb := fb }) hh hf hd he').trans ?_⟩
  rcases hu : u.halt with - | -
  · simp [State.tick, hu]
  · simp [hu]

/-- Settles O24: a step that draws is followed through its one instruction; every other step reads no framebuffer. -/
theorem framebufferInfluencesOnlyDraws : Obligations.FramebufferInfluencesOnlyDraws := by
  intro s t fb h
  refine ⟨fun hdraw => step_with_fb_of_no_draw fb h (.inr hdraw), ?_⟩
  by_cases hdraw : s.halt = true ∨ ∀ x y n, instrAtPc s ≠ some (.drwVxVyN x y n)
  · obtain ⟨fb', hstep⟩ := step_with_fb_of_no_draw fb h hdraw
    exact ⟨fb', t.v[15], by rw [hstep, Vector.set_getElem_self]⟩
  · push Not at hdraw
    obtain ⟨hh, x, y, n, hi⟩ := hdraw
    exact step_drwVxVyN_with_fb fb h (Bool.eq_false_of_not_eq_true hh) hi

theorem exec_dirty_iff (h : exec i s = .next t) (hh : s.halt = false) :
    t.dirty = true ↔ s.dirty = true ∨ (t.halt = false ∧ ∃ x y n, i = .drwVxVyN x y n) := by
  cases i with
  | drwVxVyN x y n =>
    rcases exec_drwVxVyN_cases h with ⟨-, rfl⟩ | ⟨-, rfl⟩
    · simp
    · simp [hh]
  | _ => rw [exec_dirty_eq h rfl]; simp

/-- Settles O25: the row of no instruction but DXYN names `DIRTY`, and a DXYN that completes sets it. -/
theorem dirtyIsSetByDrawsOnlyAndClearedByNoStep : Obligations.DirtyIsSetByDrawsOnlyAndClearedByNoStep := by
  intro s t h
  rcases step_cases h with ⟨hh, rfl⟩ | ⟨hh, hf, rfl⟩ | ⟨w, hh, hf, hd, rfl⟩ | ⟨w, i, u, hh, hf, hd, he, rfl⟩
  · simp [hh]
  · simp
  · simp [instrAtPc_of_fetch hf, hd]
  · have hdirty := exec_dirty_iff he hh
    rw [instrAtPc_of_fetch hf, hd]
    rcases hu : u.halt with - | -
    · simp [hdirty, hu, hh]
    · simp [hdirty, hu]

end Sys2Proof.Machine
end

section
/-! PROOFS. Main memory (spec/20_memory.md R61, R69, R70, R75): the canonical form determines memory by what it reads,
reads follow writes, and a store is seen by the next fetch. -/

namespace Sys2Proof.Machine

/-! ### Canonical memories -/

theorem lookupCell_eq_some_iff_mem {l : List Host.Cell} (h : l.Pairwise (fun p q => p.1 < q.1)) {a : Nat} {b : Byte} :
    lookupCell l a = some b ↔ (a, b) ∈ l := by
  refine ⟨lookupCell_mem, fun hmem => ?_⟩
  induction l with
  | nil => exact absurd hmem List.not_mem_nil
  | cons p rest ih =>
    obtain ⟨hhead, hrest⟩ := List.pairwise_cons.1 h
    rcases List.mem_cons.1 hmem with rfl | hmem
    · exact if_pos rfl
    · exact (if_neg (Nat.ne_of_lt (hhead _ hmem))).trans (ih hrest hmem)

/-- Two lists of cells, sorted by address, with the same cells are the same list. -/
theorem cells_eq_of_mem_iff {l l' : List Host.Cell} (h : l.Pairwise (fun p q => p.1 < q.1))
    (h' : l'.Pairwise (fun p q => p.1 < q.1)) (hmem : ∀ c, c ∈ l ↔ c ∈ l') : l = l' := by
  have hirrefl : Std.Irrefl fun p q : Host.Cell => p.1 < q.1 := ⟨fun p => Nat.lt_irrefl p.1⟩
  have hantisymm : Std.Antisymm fun p q : Host.Cell => p.1 < q.1 :=
    ⟨fun _ _ hlt hgt => absurd hlt (Nat.lt_asymm hgt)⟩
  exact h.eq_of_mem_iff h' hmem

theorem Memory.read_of_listed {m : Memory} {a : Nat} {b : Byte} (h : lookupCell m.cells a = some b) :
    m.read a = b := by
  rw [Memory.read, h, Option.getD_some]

theorem Memory.read_of_unlisted {m : Memory} {a : Nat} (h : lookupCell m.cells a = none) :
    m.read a = blankByte m.font a := by
  rw [Memory.read, h, Option.getD_none]

/-- What canonical memory lists: the bytes inside memory that differ from the reset content (R65). -/
theorem Memory.mem_cells_iff {m : Memory} (h : m.wf) (c : Host.Cell) :
    c ∈ m.cells ↔ c.1 < 4096 ∧ c.2 ≠ blankByte m.font c.1 ∧ m.read c.1 = c.2 := by
  obtain ⟨hsorted, hcells⟩ := h
  rw [← lookupCell_eq_some_iff_mem hsorted]
  constructor
  · intro hlook
    obtain ⟨ha, hb⟩ := hcells c (lookupCell_mem hlook)
    exact ⟨ha, hb, read_of_listed hlook⟩
  · rintro ⟨-, hb, hread⟩
    rcases hlook : lookupCell m.cells c.1 with - | b
    · exact absurd (hread.symm.trans (read_of_unlisted hlook)) hb
    · exact congrArg some ((read_of_listed hlook).symm.trans hread)

/-- Settles O19: both memories list the same cells, and in the same order. -/
theorem canonicalMemoriesThatReadAlikeAreEqual : Obligations.CanonicalMemoriesThatReadAlikeAreEqual := by
  intro m m' hfont hm hm' hread
  have hcells : m.cells = m'.cells := cells_eq_of_mem_iff hm.1 hm'.1 fun c => by
    rw [Memory.mem_cells_iff hm, Memory.mem_cells_iff hm', hfont]
    exact and_congr_right fun hc => by rw [hread c.1 hc]
  cases m; cases m'; cases hfont; cases hcells; rfl

/-! ### Reads after writes -/

/-- Settles O20: the law of a read after a write, at the written address and at another one. -/
theorem memoryReadReturnsTheLastWrite : Obligations.MemoryReadReturnsTheLastWrite := by
  intro m a b ha
  refine ⟨?_, fun c hc => ?_, fun hm => Memory.wf_write hm a b⟩
  · rw [Memory.read_write ha, if_pos rfl]
  · rw [Memory.read_write ha, if_neg hc]

/-- What a store of the first `n` registers leaves at the place of `V[k]` (R194). -/
theorem Memory.read_writeBytes_registerBytes (m : Memory) (v : Vector Byte 16) {a n : Nat} (h : a + n ≤ 4096) {k : Reg}
    (hk : k.val < n) : (m.writeBytes a (registerBytes v n)).read (a + k.val) = v[k] := by
  have hlen : a + (registerBytes v n).length ≤ 4096 := by rwa [registerBytes_length]
  rw [Memory.read_writeBytes _ _ _ hlen, if_pos (by rw [registerBytes_length]; omega), Nat.add_sub_cancel_left,
    registerBytes_getD v n k.val hk]
  simp [Vector.getD]

/-- Settles O21: the two bytes at the next `PC` are the first two of the stored block. -/
theorem storeIsSeenByTheNextFetch : Obligations.StoreIsSeenByTheNextFetch := by
  intro s x hx hi hin
  refine ⟨_, exec_ldMemVx s x hin, (fetchWord_eq_some_iff _ _).2 ?_⟩
  have hblock : s.i.toNat + blockSize x ≤ 4096 := Nat.succ_le_succ hin
  have hread : ∀ k : Reg, k.val < blockSize x →
      (s.mem.writeBytes s.i.toNat (registerBytes s.v (blockSize x))).read (s.i.toNat + k.val) = s.reg k :=
    fun k hk => Memory.read_writeBytes_registerBytes s.mem s.v hblock hk
  simp only [State.advance_pc, State.advance_mem, State.setMem_pc, State.setMem_mem, ← hi]
  refine ⟨by omega, ?_⟩
  rw [← hread 0 (Nat.succ_pos _), ← hread 1 (Nat.lt_succ_of_le hx)]
  rfl

end Sys2Proof.Machine
end

section
/-! PROOFS. The encoding (spec/30_encoding.md R90 to R99): the encoder is the inverse of the decoder on the defined
words, the two-level dispatch is the opcode map of R96, and what it rejects is the table of R98. -/

namespace Sys2Proof

/-! ### Words from their fields -/

section
variable {w p : Word} {f n : Nibble} {nn : Byte} {nnn : Addr}

theorem wordNNN_of_fields (hf : fieldF w = f) (hnnn : fieldNNN w = nnn) : wordNNN f nnn = w := by
  rw [← hf, ← hnnn, wordNNN_fields]

theorem wordXNN_of_fields (hf : fieldF w = f) (hnn : fieldNN w = nn) : wordXNN f (fieldX w) nn = w := by
  rw [← hf, ← hnn, wordXNN_fields]

theorem wordXYN_of_fields (hf : fieldF w = f) (hn : fieldN w = n) : wordXYN f (fieldX w) (fieldY w) n = w := by
  rw [← hf, ← hn, wordXYN_fields]

/-! ### The masks of R96 as conditions on fields -/

theorem fieldF_of_masked (hp : p.toNat = f.toNat * 4096) (h : w &&& 0xF000#16 = p) : fieldF w = f := by
  apply BitVec.eq_of_toNat_eq
  have hw := and_F000_toNat w
  rw [h] at hw
  rw [fieldF_toNat]; omega

theorem fieldF_fieldN_of_masked (hp : p.toNat = f.toNat * 4096 + n.toNat) (h : w &&& 0xF00F#16 = p) :
    fieldF w = f ∧ fieldN w = n := by
  have hw := and_F00F_toNat w
  rw [h] at hw
  constructor
  · apply BitVec.eq_of_toNat_eq; rw [fieldF_toNat]; omega
  · apply BitVec.eq_of_toNat_eq; rw [fieldN_toNat]; omega

theorem fieldF_fieldNN_of_masked (hp : p.toNat = f.toNat * 4096 + nn.toNat) (h : w &&& 0xF0FF#16 = p) :
    fieldF w = f ∧ fieldNN w = nn := by
  have hw := and_F0FF_toNat w
  rw [h] at hw
  constructor
  · apply BitVec.eq_of_toNat_eq; rw [fieldF_toNat]; omega
  · apply BitVec.eq_of_toNat_eq; rw [fieldNN_toNat]; omega

/-- The whole word is compared: 00E0 and 00EE have no operand. -/
theorem eq_of_masked_all (h : w &&& 0xFFFF#16 = p) : w = p :=
  (BitVec.and_allOnes (x := w)).symm.trans h

theorem wordNNN_of_masked (hp : p.toNat = f.toNat * 4096) (h : w &&& 0xF000#16 = p) :
    wordNNN f (fieldNNN w) = w :=
  wordNNN_of_fields (fieldF_of_masked hp h) rfl

theorem wordXNN_of_masked (hp : p.toNat = f.toNat * 4096) (h : w &&& 0xF000#16 = p) :
    wordXNN f (fieldX w) (fieldNN w) = w :=
  wordXNN_of_fields (fieldF_of_masked hp h) rfl

theorem wordXYN_of_masked (hp : p.toNat = f.toNat * 4096) (h : w &&& 0xF000#16 = p) :
    wordXYN f (fieldX w) (fieldY w) (fieldN w) = w :=
  wordXYN_of_fields (fieldF_of_masked hp h) rfl

theorem wordXYN_of_sub_masked (hp : p.toNat = f.toNat * 4096 + n.toNat) (h : w &&& 0xF00F#16 = p) :
    wordXYN f (fieldX w) (fieldY w) n = w :=
  have ⟨hf, hn⟩ := fieldF_fieldN_of_masked hp h
  wordXYN_of_fields hf hn

theorem wordXNN_of_sub_masked (hp : p.toNat = f.toNat * 4096 + nn.toNat) (h : w &&& 0xF0FF#16 = p) :
    wordXNN f (fieldX w) nn = w :=
  have ⟨hf, hnn⟩ := fieldF_fieldNN_of_masked hp h
  wordXNN_of_fields hf hnn

end

/-! ### The dispatch of R94 and R95 -/

section
variable {w : Word} {i : Instr}

theorem decode_of_family0 (h : fieldF w = 0x0#4) : decode w = decodeFamily0 w := if_pos h

theorem decode_of_family8 (h : fieldF w = 0x8#4) : decode w = decodeFamily8 w := by simp [decode, h]

theorem decode_of_familyE (h : fieldF w = 0xE#4) : decode w = decodeFamilyE w := by simp [decode, h]

theorem decode_of_familyF (h : fieldF w = 0xF#4) : decode w = decodeFamilyF w := by simp [decode, h]

/-! ### Decoding what was encoded -/

theorem decode_encode (i : Instr) : decode (encode i) = some i := by
  cases i with
  | cls | ret => decide
  | ldVxVy | orVxVy | andVxVy | xorVxVy | addVxVy | subVxVy | shrVx | subnVxVy | shlVx =>
    rw [encode, decode_of_family8 (fieldF_wordXYN ..)]; simp [decodeFamily8]
  | skpVx | sknpVx =>
    rw [encode, decode_of_familyE (fieldF_wordXNN ..)]; simp [decodeFamilyE]
  | ldVxDt | ldVxK | ldDtVx | ldStVx | addIVx | ldFVx | ldBVx | ldMemVx | ldVxMem =>
    rw [encode, decode_of_familyF (fieldF_wordXNN ..)]; simp [decodeFamilyF]
  | jpNnn | callNnn | ldINnn | jpV0Nnn
  | seVxNn | sneVxNn | ldVxNn | addVxNn | rndVxNn
  | seVxVy | sneVxVy | drwVxVyN => simp [encode, decode]

theorem decodeBytes_encodeBytes_append (i : Instr) (rest : List Byte) :
    decodeBytes (encodeBytes i ++ rest) = .instr i rest := by
  simp [encodeBytes, decodeBytes, decode_encode]

/-! ### Encoding what was decoded -/

/-- A family without a second level holds one instruction, and every word of the family is an encoding of it. -/
theorem exists_encode_of_one_level (h : fieldF w ∉ [0x0#4, 0x8#4, 0xE#4, 0xF#4]) : ∃ i, encode i = w := by
  have hcompl : ∀ f : Nibble, f ∉ [0x0#4, 0x8#4, 0xE#4, 0xF#4] →
      f ∈ [0x1#4, 0x2#4, 0x3#4, 0x4#4, 0x5#4, 0x6#4, 0x7#4, 0x9#4, 0xA#4, 0xB#4, 0xC#4, 0xD#4] := by decide
  have hf := hcompl (fieldF w) h
  simp only [List.mem_cons, List.not_mem_nil, or_false] at hf
  rcases hf with h1 | h2 | h3 | h4 | h5 | h6 | h7 | h9 | hA | hB | hC | hD
  · exact ⟨.jpNnn (fieldNNN w), wordNNN_of_fields h1 rfl⟩
  · exact ⟨.callNnn (fieldNNN w), wordNNN_of_fields h2 rfl⟩
  · exact ⟨.seVxNn (fieldX w) (fieldNN w), wordXNN_of_fields h3 rfl⟩
  · exact ⟨.sneVxNn (fieldX w) (fieldNN w), wordXNN_of_fields h4 rfl⟩
  · exact ⟨.seVxVy (fieldX w) (fieldY w) (fieldN w), wordXYN_of_fields h5 rfl⟩
  · exact ⟨.ldVxNn (fieldX w) (fieldNN w), wordXNN_of_fields h6 rfl⟩
  · exact ⟨.addVxNn (fieldX w) (fieldNN w), wordXNN_of_fields h7 rfl⟩
  · exact ⟨.sneVxVy (fieldX w) (fieldY w) (fieldN w), wordXYN_of_fields h9 rfl⟩
  · exact ⟨.ldINnn (fieldNNN w), wordNNN_of_fields hA rfl⟩
  · exact ⟨.jpV0Nnn (fieldNNN w), wordNNN_of_fields hB rfl⟩
  · exact ⟨.rndVxNn (fieldX w) (fieldNN w), wordXNN_of_fields hC rfl⟩
  · exact ⟨.drwVxVyN (fieldX w) (fieldY w) (fieldN w), wordXYN_of_fields hD rfl⟩

/-- The two levels: a family with sub-opcodes answers by its own table, and in every other family each word is the
encoding of an instruction. -/
theorem decode_cases (w : Word) :
    (fieldF w = 0x0#4 ∧ decode w = decodeFamily0 w) ∨ (fieldF w = 0x8#4 ∧ decode w = decodeFamily8 w) ∨
    (fieldF w = 0xE#4 ∧ decode w = decodeFamilyE w) ∨ (fieldF w = 0xF#4 ∧ decode w = decodeFamilyF w) ∨
    (fieldF w ∉ [0x0#4, 0x8#4, 0xE#4, 0xF#4] ∧ ∃ i, encode i = w) := by
  by_cases hf : fieldF w ∈ [0x0#4, 0x8#4, 0xE#4, 0xF#4]
  · simp only [List.mem_cons, List.not_mem_nil, or_false] at hf
    rcases hf with h | h | h | h
    · exact .inl ⟨h, decode_of_family0 h⟩
    · exact .inr (.inl ⟨h, decode_of_family8 h⟩)
    · exact .inr (.inr (.inl ⟨h, decode_of_familyE h⟩))
    · exact .inr (.inr (.inr (.inl ⟨h, decode_of_familyF h⟩)))
  · exact .inr (.inr (.inr (.inr ⟨hf, exists_encode_of_one_level hf⟩)))

theorem encode_of_decodeFamily0 (hf : fieldF w = 0x0#4) (h : decodeFamily0 w = some i) : encode i = w := by
  unfold decodeFamily0 at h
  iterate 2
    rcases ite_eq_iff.1 h with ⟨hnnn, hi⟩ | ⟨-, h⟩
    · cases hi; exact wordNNN_of_fields hf hnnn
  cases h

theorem encode_of_decodeFamily8 (hf : fieldF w = 0x8#4) (h : decodeFamily8 w = some i) : encode i = w := by
  unfold decodeFamily8 at h
  iterate 9
    rcases ite_eq_iff.1 h with ⟨hn, hi⟩ | ⟨-, h⟩
    · cases hi; exact wordXYN_of_fields hf hn
  cases h

theorem encode_of_decodeFamilyE (hf : fieldF w = 0xE#4) (h : decodeFamilyE w = some i) : encode i = w := by
  unfold decodeFamilyE at h
  iterate 2
    rcases ite_eq_iff.1 h with ⟨hnn, hi⟩ | ⟨-, h⟩
    · cases hi; exact wordXNN_of_fields hf hnn
  cases h

theorem encode_of_decodeFamilyF (hf : fieldF w = 0xF#4) (h : decodeFamilyF w = some i) : encode i = w := by
  unfold decodeFamilyF at h
  iterate 9
    rcases ite_eq_iff.1 h with ⟨hnn, hi⟩ | ⟨-, h⟩
    · cases hi; exact wordXNN_of_fields hf hnn
  cases h

theorem encode_of_decode (h : decode w = some i) : encode i = w := by
  rcases decode_cases w with ⟨hf, hd⟩ | ⟨hf, hd⟩ | ⟨hf, hd⟩ | ⟨hf, hd⟩ | ⟨-, j, rfl⟩
  · exact encode_of_decodeFamily0 hf (hd.symm.trans h)
  · exact encode_of_decodeFamily8 hf (hd.symm.trans h)
  · exact encode_of_decodeFamilyE hf (hd.symm.trans h)
  · exact encode_of_decodeFamilyF hf (hd.symm.trans h)
  · rw [Option.some.inj ((decode_encode j).symm.trans h)]

theorem decode_eq_some_iff : decode w = some i ↔ encode i = w :=
  ⟨encode_of_decode, fun h => h ▸ decode_encode i⟩

/-! ### The opcode map -/

theorem encode_masked (i : Instr) : encode i &&& i.row.mask = i.row.pattern := by
  cases i with
  | cls | ret => decide
  | jpNnn | callNnn | ldINnn | jpV0Nnn => exact Laws.EncodesInRow.wordNNN_masked _ _ _ rfl
  | seVxNn | sneVxNn | ldVxNn | addVxNn | rndVxNn => exact Laws.EncodesInRow.wordXNN_masked _ _ _ _ rfl
  | seVxVy | sneVxVy | drwVxVyN => exact Laws.EncodesInRow.wordXYN_masked _ _ _ _ _ rfl
  | ldVxVy | orVxVy | andVxVy | xorVxVy | addVxVy | subVxVy | shrVx | subnVxVy | shlVx =>
    exact Laws.EncodesInRow.wordXYN_sub_masked _ _ _ _ _ rfl
  | skpVx | sknpVx | ldVxDt | ldVxK | ldDtVx | ldStVx | addIVx | ldFVx | ldBVx | ldMemVx | ldVxMem =>
    exact Laws.EncodesInRow.wordXNN_sub_masked _ _ _ _ rfl

/-- The instruction of the same row of R96 whose operands are the fields of `w`. -/
def Instr.withOperandsOf (w : Word) : Instr → Instr
  | .cls => .cls
  | .ret => .ret
  | .jpNnn _ => .jpNnn (fieldNNN w)
  | .callNnn _ => .callNnn (fieldNNN w)
  | .seVxNn _ _ => .seVxNn (fieldX w) (fieldNN w)
  | .sneVxNn _ _ => .sneVxNn (fieldX w) (fieldNN w)
  | .seVxVy _ _ _ => .seVxVy (fieldX w) (fieldY w) (fieldN w)
  | .ldVxNn _ _ => .ldVxNn (fieldX w) (fieldNN w)
  | .addVxNn _ _ => .addVxNn (fieldX w) (fieldNN w)
  | .ldVxVy _ _ => .ldVxVy (fieldX w) (fieldY w)
  | .orVxVy _ _ => .orVxVy (fieldX w) (fieldY w)
  | .andVxVy _ _ => .andVxVy (fieldX w) (fieldY w)
  | .xorVxVy _ _ => .xorVxVy (fieldX w) (fieldY w)
  | .addVxVy _ _ => .addVxVy (fieldX w) (fieldY w)
  | .subVxVy _ _ => .subVxVy (fieldX w) (fieldY w)
  | .shrVx _ _ => .shrVx (fieldX w) (fieldY w)
  | .subnVxVy _ _ => .subnVxVy (fieldX w) (fieldY w)
  | .shlVx _ _ => .shlVx (fieldX w) (fieldY w)
  | .sneVxVy _ _ _ => .sneVxVy (fieldX w) (fieldY w) (fieldN w)
  | .ldINnn _ => .ldINnn (fieldNNN w)
  | .jpV0Nnn _ => .jpV0Nnn (fieldNNN w)
  | .rndVxNn _ _ => .rndVxNn (fieldX w) (fieldNN w)
  | .drwVxVyN _ _ _ => .drwVxVyN (fieldX w) (fieldY w) (fieldN w)
  | .skpVx _ => .skpVx (fieldX w)
  | .sknpVx _ => .sknpVx (fieldX w)
  | .ldVxDt _ => .ldVxDt (fieldX w)
  | .ldVxK _ => .ldVxK (fieldX w)
  | .ldDtVx _ => .ldDtVx (fieldX w)
  | .ldStVx _ => .ldStVx (fieldX w)
  | .addIVx _ => .addIVx (fieldX w)
  | .ldFVx _ => .ldFVx (fieldX w)
  | .ldBVx _ => .ldBVx (fieldX w)
  | .ldMemVx _ => .ldMemVx (fieldX w)
  | .ldVxMem _ => .ldVxMem (fieldX w)

@[simp] theorem Instr.row_withOperandsOf (w : Word) (i : Instr) : (i.withOperandsOf w).row = i.row := by
  cases i <;> rfl

theorem encode_withOperandsOf (h : w &&& i.row.mask = i.row.pattern) : encode (i.withOperandsOf w) = w := by
  cases i with
  | cls | ret => exact (eq_of_masked_all h).symm
  | jpNnn | callNnn | ldINnn | jpV0Nnn => exact wordNNN_of_masked rfl h
  | seVxNn | sneVxNn | ldVxNn | addVxNn | rndVxNn => exact wordXNN_of_masked rfl h
  | seVxVy | sneVxVy | drwVxVyN => exact wordXYN_of_masked rfl h
  | ldVxVy | orVxVy | andVxVy | xorVxVy | addVxVy | subVxVy | shrVx | subnVxVy | shlVx =>
    exact wordXYN_of_sub_masked rfl h
  | skpVx | sknpVx | ldVxDt | ldVxK | ldDtVx | ldStVx | addIVx | ldFVx | ldBVx | ldMemVx | ldVxMem =>
    exact wordXNN_of_sub_masked rfl h

/-- A word that matches the row of `i` decodes to the instruction of that row with the word's fields as operands. -/
theorem decode_of_row_masked (i : Instr) (h : w &&& i.row.mask = i.row.pattern) :
    decode w = some (i.withOperandsOf w) :=
  decode_eq_some_iff.2 (encode_withOperandsOf h)

theorem row_mem_opcodeMap (i : Instr) : i.row ∈ opcodeMap := by
  cases i <;> exact List.mem_of_elem_eq_true rfl

theorem exists_row_of_mem_opcodeMap : ∀ r ∈ opcodeMap, ∃ i : Instr, i.row = r := by
  simp [opcodeMap]

theorem decode_of_opcodeMap_masked {r : OpcodeRow} (hr : r ∈ opcodeMap) (h : w &&& r.mask = r.pattern) :
    ∃ i, decode w = some i ∧ i.row = r := by
  obtain ⟨i, rfl⟩ := exists_row_of_mem_opcodeMap r hr
  exact ⟨i.withOperandsOf w, decode_of_row_masked i h, i.row_withOperandsOf w⟩

/-! ### The unknown words -/

theorem decodeFamily0_eq_none_iff : decodeFamily0 w = none ↔ fieldNNN w ∉ [0x0E0#12, 0x0EE#12] := by
  simp [decodeFamily0, ite_eq_iff]

theorem decodeFamily8_eq_none_iff :
    decodeFamily8 w = none ↔ fieldN w ∈ [0x8#4, 0x9#4, 0xA#4, 0xB#4, 0xC#4, 0xD#4, 0xF#4] := by
  have hrest : ∀ n : Nibble, n ∈ [0x8#4, 0x9#4, 0xA#4, 0xB#4, 0xC#4, 0xD#4, 0xF#4] ↔
      n ∉ [0x0#4, 0x1#4, 0x2#4, 0x3#4, 0x4#4, 0x5#4, 0x6#4, 0x7#4, 0xE#4] := by decide
  rw [hrest]
  simp [decodeFamily8, ite_eq_iff]

theorem decodeFamilyE_eq_none_iff : decodeFamilyE w = none ↔ fieldNN w ∉ [0x9E#8, 0xA1#8] := by
  simp [decodeFamilyE, ite_eq_iff]

theorem decodeFamilyF_eq_none_iff : decodeFamilyF w = none ↔
    fieldNN w ∉ [0x07#8, 0x0A#8, 0x15#8, 0x18#8, 0x1E#8, 0x29#8, 0x33#8, 0x55#8, 0x65#8] := by
  simp [decodeFamilyF, ite_eq_iff]

end

/-! ### The obligations -/

/-- Settles O1: the fields of an encoded word are the instruction's, and its bytes put the word together again. -/
theorem decodeOfEncodeIsTheInstruction : Obligations.DecodeOfEncodeIsTheInstruction :=
  fun i rest => ⟨decode_encode i, decodeBytes_encodeBytes_append i rest⟩

/-- Settles O2: each answer of the dispatch keeps all fields of the word. -/
theorem encodeOfDecodeIsTheWord : Obligations.EncodeOfDecodeIsTheWord := fun _ _ => encode_of_decode

/-- Settles O3: a word in two rows would decode to an instruction of each, and it decodes to one instruction. -/
theorem decodeFollowsTheOpcodeMap : Obligations.DecodeFollowsTheOpcodeMap := by
  intro w
  refine ⟨fun i hd => ⟨row_mem_opcodeMap i, ?_⟩, fun r hr => decode_of_opcodeMap_masked hr,
    fun r hr r' hr' h h' => ?_⟩
  · rw [← encode_of_decode hd]; exact encode_masked i
  · obtain ⟨i, hi, rfl⟩ := decode_of_opcodeMap_masked hr h
    obtain ⟨i', hi', rfl⟩ := decode_of_opcodeMap_masked hr' h'
    rw [Option.some.inj (hi.symm.trans hi')]

/-- Settles O4, family by family: those with sub-opcodes by their tables, the others hold no unknown word. -/
theorem unknownWordsAreExactlyTheListedOnes : Obligations.UnknownWordsAreExactlyTheListedOnes := by
  intro w
  rcases decode_cases w with ⟨hf, hd⟩ | ⟨hf, hd⟩ | ⟨hf, hd⟩ | ⟨hf, hd⟩ | ⟨hf, i, hi⟩
  · rw [hd, decodeFamily0_eq_none_iff]; simp [hf]
  · rw [hd, decodeFamily8_eq_none_iff]; simp [hf]
  · rw [hd, decodeFamilyE_eq_none_iff]; simp [hf]
  · rw [hd, decodeFamilyF_eq_none_iff]; simp [hf]
  · simp only [List.mem_cons, List.not_mem_nil, or_false, not_or] at hf
    simp [decode_eq_some_iff.2 hi, hf]

/-- Settles O6: the dispatch of the execute phase does not hand the ignored fields on. -/
theorem ignoredBitsHaveNoEffect : Obligations.IgnoredBitsHaveNoEffect :=
  fun _ _ _ _ _ _ => ⟨rfl, rfl, rfl, rfl⟩

end Sys2Proof
end

section
/-! PROOFS. The step cycle (spec/40_cycle.md R120 to R129): every step answers, and what it leaves and reports in each of
its four ways; the tick; the walk through zeroed memory. -/

namespace Sys2Proof.Machine

section
variable {i : Instr} {s t : State}

/-! ### Every step answers (R128) -/

/-- An instruction whose meaning branches answers on either side of its condition (R252, R253, R255). -/
theorem exec_answers (i : Instr) (s : State) : ∃ t, exec i s = .next t := by
  cases i with
  | ret =>
    rcases Nat.eq_zero_or_pos s.sp.val with h | h
    · exact ⟨_, exec_ret_empty s h⟩
    · exact ⟨_, exec_ret s h⟩
  | callNnn nnn =>
    rcases (Nat.le_of_lt_succ s.sp.isLt).lt_or_eq with h | h
    · exact ⟨_, exec_callNnn s nnn h⟩
    · exact ⟨_, exec_callNnn_full s nnn h⟩
  | ldBVx x =>
    rcases Nat.lt_or_ge 0x0FFF (s.i.toNat + 2) with h | h
    · exact ⟨_, exec_ldBVx_outside s x h⟩
    · exact ⟨_, exec_ldBVx s x h⟩
  | ldMemVx x =>
    rcases Nat.lt_or_ge 0x0FFF (s.i.toNat + x.val) with h | h
    · exact ⟨_, exec_ldMemVx_outside s x h⟩
    · exact ⟨_, exec_ldMemVx s x h⟩
  | ldVxMem x =>
    rcases Nat.lt_or_ge 0x0FFF (s.i.toNat + x.val) with h | h
    · exact ⟨_, exec_ldVxMem_outside s x h⟩
    · exact ⟨_, exec_ldVxMem s x h⟩
  | drwVxVyN x y n =>
    by_cases h : n.toNat = 0 ∨ s.i.toNat + n.toNat - 1 ≤ 0x0FFF
    · exact ⟨_, exec_drwVxVyN s x y n h⟩
    · exact ⟨_, exec_drwVxVyN_outside s x y n (by omega) (by omega)⟩
  | skpVx x =>
    rcases Nat.lt_or_ge 15 (s.reg x).toNat with h | h
    · exact ⟨_, exec_skpVx_outside s x h⟩
    · exact ⟨_, exec_skpVx s x ⟨_, Nat.lt_succ_of_le h⟩ rfl⟩
  | sknpVx x =>
    rcases Nat.lt_or_ge 15 (s.reg x).toNat with h | h
    · exact ⟨_, exec_sknpVx_outside s x h⟩
    · exact ⟨_, exec_sknpVx s x ⟨_, Nat.lt_succ_of_le h⟩ rfl⟩
  | ldVxK x =>
    rcases hk : s.firstKey with - | k
    · exact ⟨_, exec_ldVxK_waiting s x ((State.firstKey_eq_none_iff s).1 hk)⟩
    · obtain ⟨hpressed, hlower⟩ := (State.firstKey_eq_some_iff s k).1 hk
      exact ⟨_, exec_ldVxK s x k hpressed hlower⟩
  | _ => exact ⟨_, rfl⟩

theorem cycle_answers (s : State) : ∃ t st, cycle s = .next (t, st) := by
  rcases hh : s.halt with - | -
  · rcases hf : fetchWord s with - | w
    · exact ⟨_, _, cycle_of_no_word hh hf⟩
    · rcases hd : decode w with - | i
      · exact ⟨_, _, cycle_of_unknown hh hf hd⟩
      · obtain ⟨u, he⟩ := exec_answers i s
        exact ⟨_, _, cycle_of_exec hh hf hd he⟩
  · exact ⟨_, _, cycle_of_halted hh⟩

/-! ### The end of a step (R127, R128) -/

theorem finishStep_of_normal (h : t.halt = false) : finishStep t = (t.tick, .ok) := if_neg (by simp [h])

theorem finishStep_of_halted (h : t.halt = true) : finishStep t = (t, t.cause.status) := if_pos h

/-! ### The tick (R127, R238) -/

/-- Only FX15 and FX18 load a timer, so the rows of R43 give what the execute phase leaves in both. -/
theorem exec_dt_eq (h : exec i s = .next t) (hi : ∀ x, i ≠ .ldDtVx x) : t.dt = s.dt := by
  obtain ⟨-, -, -, -, -, -, -, dt, -⟩ := within_footprint_of_exec h
  refine dt ?_
  cases i with
  | ldDtVx x => exact absurd rfl (hi x)
  | _ => rfl

theorem exec_st_eq (h : exec i s = .next t) (hi : ∀ x, i ≠ .ldStVx x) : t.st = s.st := by
  obtain ⟨-, -, -, -, -, -, -, -, st, -⟩ := within_footprint_of_exec h
  refine st ?_
  cases i with
  | ldStVx x => exact absurd rfl (hi x)
  | _ => rfl

theorem exec_ldDtVx_dt {x : Reg} (h : exec (.ldDtVx x) s = .next t) : t.dt = s.reg x := by cases h; rfl

theorem exec_ldStVx_st {x : Reg} (h : exec (.ldStVx x) s = .next t) : t.st = s.reg x := by cases h; rfl

/-- A step that does not fault ends in a tick, of the machine as an unknown word or an instruction left it. -/
theorem normalStep_cases (h : NormalStep s t) :
    (instrAtPc s = none ∧ t = s.skipUnknown.tick) ∨
    ∃ i u, instrAtPc s = some i ∧ exec i s = .next u ∧ t = u.tick := by
  obtain ⟨hstep, ht⟩ := h
  rcases step_cases hstep with ⟨hh, rfl⟩ | ⟨-, -, rfl⟩ | ⟨w, -, hf, hd, rfl⟩ | ⟨w, i, u, -, hf, hd, he, rfl⟩
  · simp [hh] at ht
  · simp at ht
  · exact .inl ⟨(instrAtPc_of_fetch hf).trans hd, rfl⟩
  · split at ht
    · next hu => simp [hu] at ht
    · next hu => exact .inr ⟨i, u, (instrAtPc_of_fetch hf).trans hd, he, if_neg hu⟩

end

/-! ### The walk through zeroed memory (R129) -/

/-- The machine right after reset, with `PC` at `a`. -/
def State.resetAt (font : Font) (a : Nat) : State := (State.resetWith font).setPc (BitVec.ofNat 16 a)

theorem resetAt_progBase (font : Font) : State.resetAt font 0x200 = State.resetWith font := rfl

theorem resetAt_pc_toNat (font : Font) {a : Nat} (h : a ≤ 4096) : (State.resetAt font a).pc.toNat = a := by
  rw [State.resetAt, State.setPc_pc, BitVec.toNat_ofNat]; omega

/-- Both timers are 0 after reset, so all that the tick of an unknown word leaves changed is `PC`. -/
theorem skipUnknown_tick_resetAt (font : Font) (a : Nat) :
    (State.resetAt font a).skipUnknown.tick = State.resetAt font (a + 2) := by
  have hpc : BitVec.ofNat 16 (a + 2) = BitVec.ofNat 16 a + 2 := BitVec.ofNat_add a 2
  simp only [State.resetAt, hpc]; rfl

theorem fetchWord_resetAt (font : Font) {a : Nat} (hlo : 0x0A0 ≤ a) (hhi : a + 1 < 4096) :
    fetchWord (State.resetAt font a) = some 0x0000#16 := by
  have hzero : ∀ b, a ≤ b → (State.resetAt font a).mem.read b = 0x00#8 :=
    fun b hb => Memory.read_empty_of_not_font font b (.inr (hlo.trans hb))
  rw [fetchWord_eq_some_iff, resetAt_pc_toNat font (by omega), hzero a le_rfl, hzero (a + 1) (Nat.le_succ a)]
  exact ⟨hhi, rfl⟩

theorem cycle_resetAt (font : Font) {a : Nat} (hlo : 0x0A0 ≤ a) (hhi : a + 1 < 4096) :
    cycle (State.resetAt font a) = .next (State.resetAt font (a + 2), .unknownOpcode) := by
  rw [← skipUnknown_tick_resetAt]
  exact cycle_of_unknown rfl (fetchWord_resetAt font hlo hhi) (by decide)

theorem run_succ_of_step {s t : State} (h : step s = .next t) (k : Nat) :
    Sys2Proof.core.run (k + 1) s = Sys2Proof.core.run k t := by
  have hcore : Sys2Proof.core.step s = .next t := h
  simp only [Host.Core.run, hcore]

theorem run_resetAt (font : Font) (k : Nat) {a : Nat} (hlo : 0x0A0 ≤ a) (hhi : a + 2 * k ≤ 4096) :
    Sys2Proof.core.run k (State.resetAt font a) = .next (State.resetAt font (a + 2 * k)) := by
  induction k generalizing a with
  | zero => rfl
  | succ k ih =>
    rw [run_succ_of_step (step_of_cycle (cycle_resetAt font hlo (by omega))), ih (by omega) (by omega)]
    congr 2; omega

/-- The run from reset itself, two bytes per step. -/
theorem run_resetWith (font : Font) {k : Nat} (hk : k ≤ 1792) :
    Sys2Proof.core.run k (State.resetWith font) = .next (State.resetAt font (0x200 + 2 * k)) := by
  rw [← resetAt_progBase]; exact run_resetAt font k (by decide) (by omega)

/-! ### The obligations -/

/-- Settles O8: the bytes put together, and the step that fetches nothing. -/
theorem fetchIsBigEndianAndBounded : Obligations.FetchIsBigEndianAndBounded := by
  refine fun s hh => ⟨fun hin => ⟨_, (fetchWord_eq_some_iff s _).2 ⟨hin, rfl⟩, wordOfBytes_toNat _ _⟩, fun hout => ?_⟩
  have hf : fetchWord s = none := (fetchWord_eq_none_iff s).2 hout
  have hc := cycle_of_no_word hh hf
  exact ⟨hf, stepStatus_of_cycle hc, _, step_of_cycle hc, rfl⟩

/-- Settles O9: from reset the word at every `PC` below 0x1000 is 0x0000, which is unknown. -/
theorem unknownWordAdvancesAndTicks : Obligations.UnknownWordAdvancesAndTicks := by
  refine ⟨fun s w hh hf hd => ?_, fun font => ⟨?_, fun k hk => ?_, ?_⟩⟩
  · have hc := cycle_of_unknown hh hf hd
    exact ⟨step_of_cycle hc, stepStatus_of_cycle hc⟩
  · exact ⟨_, step_of_cycle (cycle_resetAt font (a := 0x200) (by decide) (by decide)), rfl⟩
  · exact ⟨_, run_resetWith font hk.le, stepStatus_of_cycle (cycle_resetAt font (by omega) (by omega))⟩
  · have hf : fetchWord (State.resetAt font 0x1000) = none := by
      rw [fetchWord_eq_none_iff, resetAt_pc_toNat font le_rfl]; decide
    exact ⟨_, run_resetWith font le_rfl, rfl, stepStatus_of_cycle (cycle_of_no_word rfl hf)⟩

/-- Settles O11: every meaning answers, and in each of the four ways of the cycle the status is read off. -/
theorem everyStepAnswersWithItsStatus : Obligations.EveryStepAnswersWithItsStatus := by
  intro s
  obtain ⟨t, st, hc⟩ := cycle_answers s
  refine ⟨t, step_of_cycle hc, ?_⟩
  rw [stepStatus_of_cycle hc]
  rcases cycle_cases hc with
    ⟨hh, rfl, rfl⟩ | ⟨hh, hf, rfl, rfl⟩ | ⟨w, hh, hf, hd, rfl, rfl⟩ | ⟨w, i, u, hh, hf, hd, he, hfin⟩
  · simp [hh]
  · simp [hf, Cause.status]
  · simp [instrAtPc_of_fetch hf, hd, hh]
  · rcases hu : u.halt with - | -
    · rw [finishStep_of_normal hu] at hfin; cases hfin
      simp [hu, hf, hd]
    · rw [finishStep_of_halted hu] at hfin; cases hfin
      simp [hu, hf, hd]

/-- Settles O15, from what the execute phase leaves in each timer. -/
theorem everyNormalStepTicksBothTimersOnce : Obligations.EveryNormalStepTicksBothTimersOnce := by
  intro s t h
  rcases normalStep_cases h with ⟨hi, rfl⟩ | ⟨i, u, hi, he, rfl⟩
  · simp [hi, countDown_toNat]
  · simp only [hi, Option.some.injEq, ne_eq, State.tick_dt, State.tick_st, countDown_toNat]
    refine ⟨⟨?_, fun hne => by rw [exec_dt_eq he hne]⟩, ⟨?_, fun hne => by rw [exec_st_eq he hne]⟩⟩
    · rintro x rfl; rw [exec_ldDtVx_dt he]
    · rintro x rfl; rw [exec_ldStVx_st he]

/-- Settles O7: the cycle's last phase, which ticks exactly when the instruction has not halted the engine. -/
theorem stepRunsTheDecodedInstruction : Obligations.StepRunsTheDecodedInstruction := by
  intro s t w i hh hf hd he
  rw [step_of_exec hh hf hd he, stepStatus_of_exec hh hf hd he]
  refine ⟨fun ht => ?_, fun ht => ?_⟩
  · simp [ht, State.tick]
  · simp [ht]

/-- Settles O10: the halted check comes first. -/
theorem haltedStepChangesNothing : Obligations.HaltedStepChangesNothing :=
  fun _ hh => ⟨step_of_cycle (cycle_of_halted hh), stepStatus_of_cycle (cycle_of_halted hh)⟩

end Sys2Proof.Machine
end

section
/-! PROOFS. Control transfer (spec/41_flow.md R140 to R147): the jumps, the call and the return, the skips. -/

namespace Sys2Proof.Machine

open Footprint

/-! ### The call and the return (R140, R142) -/

/-- Settles O32: the push, its frame, and the entry read back where it was written. -/
theorem callPushesTheReturnAddress : Obligations.CallPushesTheReturnAddress :=
  fun nnn s hsp => ⟨_, exec_callNnn s nnn hsp, framed_callNnn_of_push nnn hsp, Vector.getElem_set_self _, rfl,
    addrOperand_toNat nnn⟩

/-- Settles O33: the pop and its frame. -/
theorem returnPopsTheReturnAddress : Obligations.ReturnPopsTheReturnAddress :=
  fun s hsp => ⟨_, exec_ret s hsp, framed_ret_of_pop hsp, rfl, rfl, rfl⟩

/-- Settles O34: the return pops the entry that the call pushed, since `u` has the call's stack and `SP`. -/
theorem returnUndoesCall : Obligations.ReturnUndoesCall := by
  intro nnn s t u hsp hcall hstack husp
  obtain ⟨t', hcall', -, hentry, htsp, -⟩ := callPushesTheReturnAddress nnn s hsp
  obtain rfl : t = t' := by rw [hcall] at hcall'; injection hcall'
  have hdepth : u.sp.val = s.sp.val + 1 := by rw [husp, htsp]
  obtain ⟨r, hret, -, hrsp, hrpc, -⟩ := returnPopsTheReturnAddress u (by omega)
  have hpop : u.stack[u.sp.val - 1] = s.pc + 2 := by simpa only [hstack, hdepth, Nat.add_sub_cancel] using hentry
  exact ⟨r, hret, hrpc.trans hpop, Fin.ext (by omega)⟩

/-! ### The jumps (R141, R143) -/

/-- Settles O31: the words of the two families encode the jumps, and a jump writes `PC` alone. -/
theorem jumpsSetThePc : Obligations.JumpsSetThePc := by
  refine ⟨fun w hf => ?_, fun w hf => ?_, fun nnn s => ⟨?_, ?_⟩⟩
  · exact decode_eq_some_iff.2 (wordNNN_of_fields hf rfl)
  · exact decode_eq_some_iff.2 (wordNNN_of_fields hf rfl)
  · exact ⟨s.setPc (addrOperand nnn), rfl, keeps_setPc _, addrOperand_toNat nnn⟩
  · exact ⟨s.setPc (offsetTarget nnn (s.reg 0)), rfl, keeps_setPc _, offsetTarget_toNat nnn (s.reg 0)⟩

/-! ### The skips (R144 to R147) -/

/-- An instruction whose meaning is a skip on `c`, where `p` says that `c` holds and `q` that it does not. -/
theorem exists_skip_of_exec {i : Instr} {s : State} {c : Bool} {p q : Prop} (he : exec i s = .next (s.skipIf c))
    (hp : c = true ↔ p) (hq : c = false ↔ q) :
    ∃ t, exec i s = .next t ∧ Framed i s t ∧ (p → t.pc = s.pc + 4) ∧ (q → t.pc = s.pc + 2) := by
  refine ⟨_, he, keeps_skipIf c, fun h => ?_, fun h => ?_⟩
  · rw [hp.2 h]; rfl
  · rw [hq.2 h]; rfl

/-- Settles O35: the words of the two families encode the skips, whose conditions are the two outcomes of one
comparison. -/
theorem skipsOnRegisterAndImmediate : Obligations.SkipsOnRegisterAndImmediate := by
  refine ⟨fun w hf => ?_, fun w hf => ?_, fun x nn s => ⟨?_, ?_⟩⟩
  · exact decode_eq_some_iff.2 (wordXNN_of_fields hf rfl)
  · exact decode_eq_some_iff.2 (wordXNN_of_fields hf rfl)
  · exact exists_skip_of_exec rfl beq_iff_eq beq_eq_false_iff_ne
  · exact exists_skip_of_exec rfl bne_iff_ne bne_eq_false_iff_eq

/-- Settles O36: no meaning is handed the ignored nibble. -/
theorem skipsOnTwoRegisters : Obligations.SkipsOnTwoRegisters :=
  fun _ _ _ _ => ⟨exists_skip_of_exec rfl beq_iff_eq beq_eq_false_iff_ne,
    exists_skip_of_exec rfl bne_iff_ne bne_eq_false_iff_eq⟩

end Sys2Proof.Machine
end

section
/-! PROOFS. Loads, arithmetic and logic (spec/42_load_alu.md R160 to R173): the result and the flag in exact numbers,
where each lands, and the destination `VF`. -/

namespace Sys2Proof.Machine

/-! ### Where the result and the flag land (R22, R126, R172) -/

section
variable {s : State} {x : Reg} {c : Bool} {b : Byte}

theorem reg_result_self : (s.result x b).reg x = b := by simp [State.result]

/-- The result is written last, so this holds of `x = VF` too. -/
theorem reg_flaggedResult_self : (s.flaggedResult x c b).reg x = b := reg_result_self

theorem reg_flaggedResult_VF (hx : x ≠ Reg.VF) : (s.flaggedResult x c b).reg Reg.VF = flagByte c := by
  simp [State.flaggedResult, State.result, hx.symm]

end

/-! ### Results and flags in exact numbers (R166 to R170) -/

section
variable (a b : Byte)

theorem byte_add_toNat : (a + b).toNat = (a.toNat + b.toNat) % 256 := BitVec.toNat_add a b

theorem byte_sub_toNat : (a - b).toNat = (a.toNat + 256 - b.toNat) % 256 := by
  rw [BitVec.toNat_sub]; omega

theorem byte_halved_toNat : (a >>> 1).toNat = a.toNat / 2 := by
  rw [BitVec.toNat_ushiftRight, Nat.shiftRight_eq_div_pow, pow_one]

theorem byte_doubled_toNat : (a <<< 1).toNat = 2 * a.toNat % 256 := by
  rw [BitVec.toNat_shiftLeft, Nat.shiftLeft_eq, pow_one, Nat.mul_comm]

theorem flagByte_toNat (c : Bool) : (flagByte c).toNat = c.toNat := by cases c <;> rfl

theorem carryOut_toNat : (carryOut a b).toNat = (a.toNat + b.toNat) / 256 := by
  by_cases h : 255 < a.toNat + b.toNat
  · simp only [carryOut, h, decide_true, Bool.toNat_true]; omega
  · simp only [carryOut, h, decide_false, Bool.toNat_false]; omega

theorem flagByte_noBorrow : flagByte (noBorrow a b) = if b.toNat ≤ a.toNat then 1 else 0 := by
  simp [flagByte, noBorrow]

theorem lowBit_toNat : (lowBit a).toNat = a.toNat % 2 := by
  rw [lowBit, BitVec.getLsbD, Nat.toNat_testBit, pow_zero, Nat.div_one]

theorem highBit_toNat : (highBit a).toNat = 2 * a.toNat / 256 := by
  rw [highBit, BitVec.getLsbD, Nat.toNat_testBit]; omega

end

/-! ### The obligations -/

/-- Settles O38: a word in a row of R96 decodes to the row's instruction with the word's own operands, and each meaning is
one result computed bit by bit. -/
theorem assignAndLogicWriteNoFlag : Obligations.AssignAndLogicWriteNoFlag := by
  refine ⟨fun _ => decode_of_row_masked (.ldVxVy 0 0), fun _ => decode_of_row_masked (.orVxVy 0 0),
    fun _ => decode_of_row_masked (.andVxVy 0 0), fun _ => decode_of_row_masked (.xorVxVy 0 0),
    fun x y s => ⟨?_, ?_, ?_, ?_⟩⟩
  · exact ⟨_, rfl, framed_of_loadAlu rfl rfl, reg_result_self, rfl⟩
  · refine ⟨_, rfl, framed_of_loadAlu rfl rfl, rfl, fun k => ?_⟩
    rw [reg_result_self, BitVec.getLsbD_or]
  · refine ⟨_, rfl, framed_of_loadAlu rfl rfl, rfl, fun k => ?_⟩
    rw [reg_result_self, BitVec.getLsbD_and]
  · refine ⟨_, rfl, framed_of_loadAlu rfl rfl, rfl, fun k => ?_⟩
    rw [reg_result_self, BitVec.getLsbD_xor]

/-- Settles O37: a family each, and a result of the register and the immediate with no flag. -/
theorem immediateLoadAndAdd : Obligations.ImmediateLoadAndAdd := by
  refine ⟨fun w hf => ?_, fun w hf => ?_, fun x nn s => ⟨?_, ?_⟩⟩
  · exact decode_eq_some_iff.2 (wordXNN_of_fields hf rfl)
  · exact decode_eq_some_iff.2 (wordXNN_of_fields hf rfl)
  · exact ⟨_, rfl, framed_of_loadAlu rfl rfl, reg_result_self, rfl⟩
  · refine ⟨_, rfl, framed_of_loadAlu rfl rfl, ?_, rfl⟩
    rw [reg_result_self, byte_add_toNat]

/-- Settles O39: the exact sum splits into the result and the carry. -/
theorem addSetsTheCarry : Obligations.AddSetsTheCarry := by
  refine fun x y s hx => ⟨_, rfl, framed_of_loadAlu rfl rfl, ?_, ?_, rfl⟩
  · rw [reg_flaggedResult_self, byte_add_toNat]
  · rw [reg_flaggedResult_VF hx, flagByte_toNat, carryOut_toNat]

/-- Settles O40: the two subtractions differ in the order of their operands alone. -/
theorem subtractSetsNotBorrow : Obligations.SubtractSetsNotBorrow := by
  refine fun x y s hx => ⟨⟨_, rfl, framed_of_loadAlu rfl rfl, ?_, ?_, rfl⟩,
    ⟨_, rfl, framed_of_loadAlu rfl rfl, ?_, ?_, rfl⟩⟩
  · rw [reg_flaggedResult_self, byte_sub_toNat]
  · rw [reg_flaggedResult_VF hx, flagByte_noBorrow]
  · rw [reg_flaggedResult_self, byte_sub_toNat]
  · rw [reg_flaggedResult_VF hx, flagByte_noBorrow]

/-- Settles O41: the expelled bit is the remainder of the halving, and the carry of the doubling. -/
theorem shiftsExpelOneBit : Obligations.ShiftsExpelOneBit := by
  refine fun x y s hx => ⟨⟨_, rfl, framed_of_loadAlu rfl rfl, ?_, ?_, rfl⟩,
    ⟨_, rfl, framed_of_loadAlu rfl rfl, ?_, ?_, rfl⟩⟩
  · rw [reg_flaggedResult_self, byte_halved_toNat]
  · rw [reg_flaggedResult_VF hx, flagByte_toNat, lowBit_toNat]
  · rw [reg_flaggedResult_self, byte_doubled_toNat]
  · rw [reg_flaggedResult_VF hx, flagByte_toNat, highBit_toNat]

/-- Settles O42: the flag goes to `VF` first and the result, computed from the old `VF`, overwrites it. -/
theorem flagIsLostWhenVfIsTheDestination : Obligations.FlagIsLostWhenVfIsTheDestination := by
  intro y s
  refine ⟨⟨_, rfl, framed_of_loadAlu rfl rfl, rfl, ?_⟩, ⟨_, rfl, framed_of_loadAlu rfl rfl, rfl, ?_⟩,
    ⟨_, rfl, framed_of_loadAlu rfl rfl, rfl, ?_⟩, ⟨_, rfl, framed_of_loadAlu rfl rfl, rfl, ?_⟩,
    ⟨_, rfl, framed_of_loadAlu rfl rfl, rfl, ?_⟩⟩
  · rw [reg_flaggedResult_self, byte_add_toNat]
  · rw [reg_flaggedResult_self, byte_sub_toNat]
  · rw [reg_flaggedResult_self, byte_sub_toNat]
  · rw [reg_flaggedResult_self, byte_halved_toNat]
  · rw [reg_flaggedResult_self, byte_doubled_toNat]

end Sys2Proof.Machine
end

section
/-! PROOFS. The index register and the memory instructions (spec/43_index_memory.md R190 to R197): the address that `I`
is set to, the decimal digits, the register block stored and loaded again. -/

namespace Sys2Proof.Machine

/-! ### An instruction that completes (R256) -/

/-- A raise leaves `PC` on the faulting instruction, so an instruction that moved `PC` on has completed. -/
theorem framed_of_exec_advanced {i : Instr} {s t : State} (h : exec i s = .next t) (hpc : t.pc = s.pc + 2) :
    Framed i s t := by
  rcases framed_or_raised h with hf | ⟨c, -, rfl⟩
  · exact hf
  · rw [State.raise_pc] at hpc; bv_omega

/-! ### Numbers and bytes (R191, R193) -/

theorem maskedIndexSum_toNat (i : Word) (b : Byte) :
    (BitVec.ofNat 16 (indexSum i b % 4096)).toNat = (i.toNat + b.toNat) % 4096 := by
  rw [BitVec.toNat_ofNat, indexSum]; omega

theorem flagByte_indexOverflow (i : Word) (b : Byte) :
    flagByte (indexOverflow i b) = if 0x0FFF < i.toNat + b.toNat then 1 else 0 :=
  if_congr decide_eq_true_iff rfl rfl

theorem decimalDigits_toNat (b : Byte) :
    (decimalDigits b).map BitVec.toNat = [b.toNat / 100, b.toNat / 10 % 10, b.toNat % 10] := by
  simp only [decimalDigits, List.map_cons, List.map_nil, BitVec.toNat_ofNat, List.cons.injEq, and_true]
  omega

/-- A byte of a block written inside memory, read back at its place. -/
theorem Memory.read_writeBytes_getElem (m : Memory) {bs : List Byte} {a k : Nat} (h : a + bs.length ≤ 4096)
    (hk : k < bs.length) : (m.writeBytes a bs).read (a + k) = bs[k] := by
  rw [Memory.read_writeBytes bs m a h, if_pos (by omega), Nat.add_sub_cancel_left, List.getD_eq_getElem _ _ hk]

/-- What FX33 leaves: hundreds, tens and ones. -/
theorem Memory.read_writeBytes_decimalDigits (m : Memory) (b : Byte) {a : Nat} (h : a + 2 ≤ 0x0FFF) :
    ((m.writeBytes a (decimalDigits b)).read a).toNat = b.toNat / 100 ∧
    ((m.writeBytes a (decimalDigits b)).read (a + 1)).toNat = b.toNat / 10 % 10 ∧
    ((m.writeBytes a (decimalDigits b)).read (a + 2)).toNat = b.toNat % 10 := by
  have hdigit : ∀ k (hk : k < (decimalDigits b).length),
      ((m.writeBytes a (decimalDigits b)).read (a + k)).toNat =
        [b.toNat / 100, b.toNat / 10 % 10, b.toNat % 10].getD k 0 := fun k hk => by
    rw [Memory.read_writeBytes_getElem m (Nat.succ_le_succ h) hk, ← decimalDigits_toNat b,
      List.getD_eq_getElem _ _ (by rwa [List.length_map]), List.getElem_map]
  exact ⟨hdigit 0 (by simp), hdigit 1 (by simp), hdigit 2 (by simp)⟩

/-! ### The obligations -/

/-- Settles O43: the words encode the two instructions, and each sets `I` alone. -/
theorem indexIsSetToAddressOrGlyph : Obligations.IndexIsSetToAddressOrGlyph := by
  refine ⟨fun w hf => decode_eq_some_iff.2 (wordNNN_of_fields hf rfl), fun w => decode_of_row_masked (.ldFVx 0),
    fun nnn x s => ⟨?_, ?_⟩⟩
  · exact ⟨_, rfl, framed_of_exec_advanced rfl rfl, addrOperand_toNat nnn, rfl⟩
  · exact ⟨_, rfl, framed_of_exec_advanced rfl rfl, glyphAddress_toNat (s.reg x), rfl⟩

/-- Settles O44: sum and flag are both of the old `I` and the old `VX`. -/
theorem addToIndexMasksTo12Bits : Obligations.AddToIndexMasksTo12Bits := by
  refine fun x s => ⟨_, rfl, framed_of_exec_advanced rfl rfl, maskedIndexSum_toNat s.i (s.reg x), ?_, rfl⟩
  rw [State.reg_advance, State.reg_setFlag, if_pos rfl, flagByte_indexOverflow]

/-- Settles O45: the three bytes are the quotients and remainders that make up `VX` in decimal. -/
theorem bcdStoresTheDecimalDigits : Obligations.BcdStoresTheDecimalDigits := by
  intro x s hin
  have he := exec_ldBVx s x hin
  obtain ⟨hundreds, tens, ones⟩ := Memory.read_writeBytes_decimalDigits s.mem (s.reg x) hin
  refine ⟨_, he, framed_of_exec_advanced he rfl, rfl, ?_⟩
  rw [State.advance_mem, State.setMem_mem, hundreds, tens, ones]
  omega

/-- Settles O46: inside the block the registers are read back, and outside it the frame of R43 holds. -/
theorem bulkStoreWritesTheRegisterBlock : Obligations.BulkStoreWritesTheRegisterBlock := by
  intro x s hin
  have he := exec_ldMemVx s x hin
  obtain ⟨-, -, -, -, bytes, -⟩ := within_footprint_of_exec he
  refine ⟨_, he, framed_of_exec_advanced he rfl, rfl, rfl, fun k hk => ?_, fun a ha => ?_⟩
  · exact Memory.read_writeBytes_registerBytes s.mem s.v (Nat.succ_le_succ hin) (Nat.lt_succ_of_le hk)
  · have houtside : ¬(s.i.toNat ≤ a ∧ a < s.i.toNat + (x.val + 1)) := by omega
    exact bytes a houtside

/-- Settles O47: `V0` to `VX` are read from the block, and above `VX` the frame of R43 holds. -/
theorem bulkLoadReadsTheRegisterBlock : Obligations.BulkLoadReadsTheRegisterBlock := by
  intro x s hin
  have he := exec_ldVxMem s x hin
  obtain ⟨regs, -⟩ := within_footprint_of_exec he
  refine ⟨_, he, framed_of_exec_advanced he rfl, rfl, rfl, rfl, fun k hk => ?_, fun k hk => ?_⟩
  · have hblock : k.val < blockSize x := Nat.lt_succ_of_le hk
    rw [State.reg_advance, State.reg_setRegs, loadRegisters_getElem, if_pos hblock]
  · exact regs k (decide_eq_false (not_le.2 hk))

/-- Settles O48: FX55 keeps `I`, so FX65 reads the block that FX55 wrote. -/
theorem bulkLoadUndoesBulkStore : Obligations.BulkLoadUndoesBulkStore := by
  intro x s t v hin hstore
  obtain ⟨t', hstore', -, -, hindex, hblock, -⟩ := bulkStoreWritesTheRegisterBlock x s hin
  obtain rfl : t = t' := by rw [hstore] at hstore'; injection hstore'
  obtain ⟨u, hload, -, -, -, -, hloaded, habove⟩ :=
    bulkLoadReadsTheRegisterBlock x { t with v := v } (by rwa [← hindex] at hin)
  refine ⟨u, hload, fun k hk => ?_, habove⟩
  rw [hloaded k hk, ← hblock k hk, ← hindex]

end Sys2Proof.Machine
end

section
/-! PROOFS. The display (spec/44_display.md R210 to R214): the screen cleared, the sprite's set toggled with its collision
reported, and the same sprite drawn a second time. -/

namespace Sys2Proof.Machine

/-! ### The framebuffer as its pixels (R32) -/

theorem framebuffer_ext {fb fb' : Framebuffer} (h : ∀ px py, pixel fb px py = pixel fb' px py) : fb = fb' :=
  Vector.ext fun y hy => BitVec.eq_of_getLsbD_eq fun x hx => h ⟨x, hx⟩ ⟨y, hy⟩

/-! ### The sprite's set (R212) -/

/-- The pixels the draw loops address are the set of R212. -/
theorem rowsCover_iff_spriteCovers (s : State) (x y : Reg) (n : Nibble) (px : Fin 64) (py : Fin 32) :
    RowsCover s.mem (effectiveAddress s 0) (s.reg x) (s.reg y) n.toNat px py ↔ SpriteCovers s x y n px py := by
  constructor
  · rintro ⟨row, hrow, rfl, col, hcol, hbit, rfl⟩
    exact ⟨row, col, hrow, hcol, hbit, rfl, rfl⟩
  · rintro ⟨row, col, hrow, hcol, hbit, hx, hy⟩
    exact ⟨row, hrow, Fin.ext hy, col, hcol, hbit, Fin.ext hx⟩

/-- The draw toggles the pixels of its set and no other; it sees a collision when one of them was on (R212). -/
theorem drawSprite_spec (s : State) (x y : Reg) (n : Nibble) :
    (∀ px py, SpriteCovers s x y n px py → pixel (drawSprite s x y n).fb px py = !pixel s.fb px py) ∧
    (∀ px py, ¬ SpriteCovers s x y n px py → pixel (drawSprite s x y n).fb px py = pixel s.fb px py) ∧
    ((drawSprite s x y n).hit = true ↔ ∃ px py, SpriteCovers s x y n px py ∧ pixel s.fb px py = true) := by
  have hrows := drawRows_spec s.mem (effectiveAddress s 0) (s.reg x) (s.reg y) n.toNat
    (Nat.le_of_lt_succ n.isLt) ⟨s.fb, false⟩
  simp only [rowsCover_iff_spriteCovers, Bool.false_eq_true, false_or] at hrows
  exact hrows

/-- A draw keeps memory, `I` and every register but `VF`, so the next draw addresses the same set. -/
theorem spriteCovers_iff_of_drawn {x y : Reg} {n : Nibble} {s t : State} (hx : x ≠ Reg.VF) (hy : y ≠ Reg.VF)
    (h : exec (.drwVxVyN x y n) s = .next t) (px : Fin 64) (py : Fin 32) :
    SpriteCovers t x y n px py ↔ SpriteCovers s x y n px py := by
  obtain ⟨regs, index, -, -, bytes, -⟩ := within_footprint_of_exec h
  have hmem : ∀ a, t.mem.read a = s.mem.read a := fun a => bytes a fun ha => Nat.not_lt_zero a ha.2
  simp only [SpriteCovers, hmem, index rfl, regs x (beq_eq_false_iff_ne.2 hx), regs y (beq_eq_false_iff_ne.2 hy)]

/-! ### The obligations -/

/-- Settles O49: no pixel of the cleared framebuffer is on. -/
theorem clearTurnsEveryPixelOff : Obligations.ClearTurnsEveryPixelOff :=
  fun _ => ⟨_, rfl, framed_of_exec_advanced rfl rfl, rfl, rfl, pixel_clearFramebuffer⟩

/-- Settles O50: what the draw loops leave, said of the set of R212; the flag written to `VF` is their collision. -/
theorem drawTogglesTheSpriteSet : Obligations.DrawTogglesTheSpriteSet := by
  intro x y n s hin
  have he := exec_drwVxVyN s x y n hin
  obtain ⟨toggled, kept, hit_iff⟩ := drawSprite_spec s x y n
  refine ⟨_, he, framed_of_exec_advanced he rfl, toggled, kept, fun hon => ?_, fun hoff => ?_, rfl, rfl⟩
  · have hhit := hit_iff.2 hon
    simp [hhit, flagByte]
  · have hhit := Bool.eq_false_iff.2 (mt hit_iff.1 hoff)
    simp [hhit, flagByte]

/-- Settles O51: both draws toggle the same set, so a pixel of it is back after the second, and it was on before the second
when it was off before the first. -/
theorem drawingTwiceRestoresTheFramebuffer : Obligations.DrawingTwiceRestoresTheFramebuffer := by
  intro x y n s t hx hy hin hfirst
  have hset := spriteCovers_iff_of_drawn hx hy hfirst
  have hindex : t.i = s.i := exec_index_eq hfirst rfl
  obtain ⟨t', hfirst', -, toggled, kept, -⟩ := drawTogglesTheSpriteSet x y n s hin
  obtain rfl : t = t' := by rw [hfirst] at hfirst'; injection hfirst'
  obtain ⟨u, hsecond, -, toggledAgain, keptAgain, flagOn, flagOff, -⟩ :=
    drawTogglesTheSpriteSet x y n t (by rwa [hindex])
  have hlit : (∃ px py, SpriteCovers t x y n px py ∧ pixel t.fb px py = true) ↔
      ∃ px py, SpriteCovers s x y n px py ∧ pixel s.fb px py = false :=
    exists₂_congr fun px py => by
      rw [hset]
      exact and_congr_right fun hc => by rw [toggled px py hc, Bool.not_eq_true']
  refine ⟨u, hsecond, framebuffer_ext fun px py => ?_, ?_⟩
  · by_cases hc : SpriteCovers s x y n px py
    · rw [toggledAgain px py ((hset px py).2 hc), toggled px py hc, Bool.not_not]
    · rw [keptAgain px py (mt (hset px py).1 hc), kept px py hc]
  · rw [← hlit]
    refine ⟨fun hone => ?_, flagOn⟩
    by_contra hnone
    exact absurd (hone.symm.trans (flagOff hnone)) (by decide)

end Sys2Proof.Machine
end

section
/-! PROOFS. The keypad, the timers and the random input (spec/45_keypad_timer_random.md R230 to R238): the byte that a step
draws, the key that FX0A takes, the two skips on a key, the timer copies, the masked byte. -/

namespace Sys2Proof.Machine

/-! ### The random input (R37, R236) -/

section
variable {i : Instr} {s t : State}

theorem exec_rndVxNn_draws {x : Reg} {nn : Byte} (h : exec (.rndVxNn x nn) s = .next t) : t.draws = s.draws + 1 := by
  cases h; rfl

/-- The row of no instruction but CXNN names the random input (R43). -/
theorem exec_draws_eq (h : exec i s = .next t) (hi : ∀ x nn, i ≠ .rndVxNn x nn) : t.draws = s.draws := by
  obtain ⟨-, -, -, -, -, -, -, -, -, draws, -⟩ := within_footprint_of_exec h
  refine draws ?_
  cases i with
  | rndVxNn x nn => exact absurd rfl (hi x nn)
  | _ => rfl

/-- The end of a step draws nothing, whether or not the instruction raised. -/
theorem draws_tickUnlessHalted (u : State) : (if u.halt = true then u else u.tick).draws = u.draws := by
  split <;> rfl

theorem step_draws_of_rndVxNn {x : Reg} {nn : Byte} (h : step s = .next t) (hh : s.halt = false)
    (hi : instrAtPc s = some (.rndVxNn x nn)) : t.draws = s.draws + 1 := by
  obtain ⟨w, u, -, -, he, rfl⟩ := exec_of_step h hh hi
  exact (draws_tickUnlessHalted u).trans (exec_rndVxNn_draws he)

theorem step_draws_of_not_rndVxNn (h : step s = .next t) (hi : ∀ x nn, instrAtPc s ≠ some (.rndVxNn x nn)) :
    t.draws = s.draws := by
  rcases step_cases h with ⟨-, rfl⟩ | ⟨-, -, rfl⟩ | ⟨w, -, -, -, rfl⟩ | ⟨w, i, u, -, hf, hd, he, rfl⟩
  · rfl
  · rfl
  · rfl
  · have hne : ∀ x nn, i ≠ .rndVxNn x nn := fun x nn hin =>
      hi x nn (by rw [instrAtPc_of_fetch hf, hd, hin])
    exact (draws_tickUnlessHalted u).trans (exec_draws_eq he hne)

end

/-! ### The skips on a key (R230, R231) -/

theorem pc_skipIf_not (s : State) (c : Bool) : (s.skipIf (!c)).pc = if c = true then s.pc + 2 else s.pc + 4 := by
  cases c <;> rfl

/-! ### The obligations -/

/-- Settles O26: a halted step changes nothing, and of the instructions only CXNN draws. -/
theorem randomBytesAreDrawnByRndOnly : Obligations.RandomBytesAreDrawnByRndOnly := by
  intro s t h
  refine ⟨fun ⟨x, nn, hh, hi⟩ => step_draws_of_rndVxNn h hh hi, ?_⟩
  rintro (hh | hi)
  · obtain ⟨hstay, -⟩ := haltedStepChangesNothing s hh
    obtain rfl : s = t := by rw [hstay] at h; injection h
    rfl
  · exact step_draws_of_not_rndVxNn h hi

/-- Settles O53: the key is the first in the ascending scan, and its index fits a byte. -/
theorem keyWaitTakesTheLowestKeyOrWaits : Obligations.KeyWaitTakesTheLowestKeyOrWaits := by
  refine fun x s => ⟨fun k hpressed hlower => ?_, exec_ldVxK_waiting s x⟩
  have he := exec_ldVxK s x k hpressed hlower
  have hbyte : (BitVec.ofNat 8 k.val).toNat = k.val := by rw [BitVec.toNat_ofNat]; omega
  refine ⟨_, he, framed_of_exec_advanced he rfl, ?_, rfl⟩
  rw [State.reg_advance, State.reg_setReg, if_pos rfl, hbyte]

/-- Settles O52: each skip is on the level of key `VX`, or on its negation. -/
theorem keySkipsTestTheKey : Obligations.KeySkipsTestTheKey := by
  refine fun x s => ⟨fun k hk => ⟨?_, ?_⟩, fun hout => ⟨exec_skpVx_outside s x hout, exec_sknpVx_outside s x hout⟩⟩
  · exact ⟨_, exec_skpVx s x k hk, Footprint.keeps_skipIf _, State.skipIf_pc s _⟩
  · exact ⟨_, exec_sknpVx s x k hk, Footprint.keeps_skipIf _, pc_skipIf_not s _⟩

/-- Settles O54: one component each, and the frame of R43. -/
theorem timerCopies : Obligations.TimerCopies := by
  refine fun x s => ⟨?_, ?_, ?_⟩
  · exact ⟨s.result x s.dt, rfl, framed_of_exec_advanced rfl rfl, reg_result_self, rfl⟩
  · exact ⟨_, rfl, framed_of_exec_advanced rfl rfl, rfl, rfl⟩
  · exact ⟨_, rfl, framed_of_exec_advanced rfl rfl, rfl, rfl⟩

/-- Settles O55: each bit of `VX` is the conjunction of the byte's bit and the mask's. -/
theorem randomIsMaskedByNn : Obligations.RandomIsMaskedByNn := by
  intro x nn s
  refine ⟨_, rfl, framed_of_exec_advanced rfl rfl, rfl, rfl, fun k hk => ?_, fun k hk => ?_⟩
  · simp [hk]
  · simp [hk]

end Sys2Proof.Machine
end

section
/-! PROOFS. The fatal faults (spec/60_exceptions.md R250 to R257): which instruction raises which cause, and the step that
a fault ends. -/

namespace Sys2Proof.Machine

variable {i : Instr} {s t : State} {c : Cause}

/-! ### The status of a cause (R251) -/

theorem Cause.status_injective : Function.Injective Cause.status := by
  intro c d h
  cases c <;> cases d <;> cases h <;> rfl

theorem Cause.status_ne_unknownOpcode (c : Cause) : c.status ≠ .unknownOpcode := by cases c <;> decide

/-! ### What an instruction raises (R252, R253, R255) -/

/-- `i` raises `c` at `s`: the rows of the exception table, read as a relation. -/
def Raises (i : Instr) (s : State) : Cause → Prop
  | .none => False
  | .addressOutOfRange => addressFault i s
  | .stackOverflow => (∃ nnn, i = .callNnn nnn) ∧ s.sp.val = 16
  | .stackUnderflow => i = .ret ∧ s.sp.val = 0

theorem exec_of_raises (h : Raises i s c) : exec i s = .next (s.raise c) := by
  cases c with
  | none => exact h.elim
  | addressOutOfRange =>
    cases i with
    | drwVxVyN x y n =>
      obtain ⟨hrows, hout⟩ := h
      exact exec_drwVxVyN_outside s x y n hrows hout
    | ldBVx x => exact exec_ldBVx_outside s x h
    | ldMemVx x => exact exec_ldMemVx_outside s x h
    | ldVxMem x => exact exec_ldVxMem_outside s x h
    | skpVx x => exact exec_skpVx_outside s x h
    | sknpVx x => exact exec_sknpVx_outside s x h
    | _ => exact False.elim h
  | stackOverflow =>
    obtain ⟨⟨nnn, rfl⟩, hsp⟩ := h
    exact exec_callNnn_full s nnn hsp
  | stackUnderflow =>
    obtain ⟨rfl, hsp⟩ := h
    exact exec_ret_empty s hsp

/-- The converse: an instruction that writes `HALT` has raised, where the exception table says. -/
theorem exec_halt_eq_or_raises (h : exec i s = .next t) : t.halt = s.halt ∨ ∃ c, Raises i s c ∧ t = s.raise c := by
  cases i with
  | ret =>
    rcases exec_ret_cases h with ⟨hsp, ht⟩ | ⟨-, rfl⟩
    · exact .inr ⟨.stackUnderflow, ⟨rfl, hsp⟩, ht⟩
    · exact .inl rfl
  | callNnn nnn =>
    rcases exec_callNnn_cases h with ⟨hsp, ht⟩ | ⟨-, rfl⟩
    · exact .inr ⟨.stackOverflow, ⟨⟨nnn, rfl⟩, hsp⟩, ht⟩
    · exact .inl rfl
  | drwVxVyN =>
    rcases exec_drwVxVyN_cases h with ⟨hout, ht⟩ | ⟨-, rfl⟩
    · exact .inr ⟨.addressOutOfRange, hout, ht⟩
    · exact .inl rfl
  | ldBVx =>
    rcases exec_ldBVx_cases h with ⟨hout, ht⟩ | ⟨-, rfl⟩
    · exact .inr ⟨.addressOutOfRange, hout, ht⟩
    · exact .inl rfl
  | ldMemVx =>
    rcases exec_ldMemVx_cases h with ⟨hout, ht⟩ | ⟨-, rfl⟩
    · exact .inr ⟨.addressOutOfRange, hout, ht⟩
    · exact .inl rfl
  | ldVxMem =>
    rcases exec_ldVxMem_cases h with ⟨hout, ht⟩ | ⟨-, rfl⟩
    · exact .inr ⟨.addressOutOfRange, hout, ht⟩
    · exact .inl rfl
  | skpVx =>
    rcases exec_skpVx_cases h with ⟨hout, ht⟩ | ⟨k, -, rfl⟩
    · exact .inr ⟨.addressOutOfRange, hout, ht⟩
    · exact .inl (State.skipIf_halt s _)
  | sknpVx =>
    rcases exec_sknpVx_cases h with ⟨hout, ht⟩ | ⟨k, -, rfl⟩
    · exact .inr ⟨.addressOutOfRange, hout, ht⟩
    · exact .inl (State.skipIf_halt s _)
  | ldVxK => rcases exec_ldVxK_cases h with ⟨-, rfl⟩ | ⟨k, -, rfl⟩ <;> exact .inl rfl
  | seVxNn | sneVxNn | seVxVy | sneVxVy => cases h; exact .inl (State.skipIf_halt s _)
  | _ => cases h; exact .inl rfl

/-! ### The step that a fault ends (R120, R122, R256) -/

/-- The step from `s` faults with `c`: its fetch fails, or the instruction at `PC` raises `c`. -/
def StepFaults (s : State) (c : Cause) : Prop :=
  (c = .addressOutOfRange ∧ fetchWord s = none) ∨ ∃ i, instrAtPc s = some i ∧ Raises i s c

theorem StepFaults.ne_none (h : StepFaults s c) : c ≠ .none := by
  rintro rfl
  rcases h with ⟨hc, -⟩ | ⟨i, -, hr⟩
  · cases hc
  · exact hr

theorem cycle_of_stepFaults (hh : s.halt = false) (h : StepFaults s c) : cycle s = .next (s.raise c, c.status) := by
  rcases h with ⟨rfl, hf⟩ | ⟨i, hi, hr⟩
  · exact cycle_of_no_word hh hf
  · obtain ⟨w, hf, hd⟩ := Option.bind_eq_some_iff.1 hi
    exact cycle_of_exec hh hf hd (exec_of_raises hr)

/-- A step of an engine that is not halted goes on with one of the two statuses that are no fault, or faults. -/
theorem cycle_normal_or_faults {st : Status} (hh : s.halt = false) (h : cycle s = .next (t, st)) :
    (t.halt = false ∧ (st = .ok ∨ st = .unknownOpcode)) ∨ ∃ c, StepFaults s c ∧ t = s.raise c ∧ st = c.status := by
  rcases cycle_cases h with
    ⟨hh', -⟩ | ⟨-, hf, rfl, rfl⟩ | ⟨w, -, -, -, rfl, rfl⟩ | ⟨w, i, u, -, hf, hd, he, hfin⟩
  · simp [hh] at hh'
  · exact .inr ⟨_, .inl ⟨rfl, hf⟩, rfl, rfl⟩
  · exact .inl ⟨hh, .inr rfl⟩
  · rcases exec_halt_eq_or_raises he with hu | ⟨c, hr, rfl⟩
    · have hrun : u.halt = false := hu.trans hh
      rw [finishStep_of_normal hrun] at hfin; cases hfin
      exact .inl ⟨hrun, .inl rfl⟩
    · cases hfin
      exact .inr ⟨c, .inr ⟨i, (instrAtPc_of_fetch hf).trans hd, hr⟩, rfl, rfl⟩

/-- The status is a fatal code exactly when the step faults with its cause: the codes of the causes are distinct, and
neither `Ok` nor `UnknownOpcode` is one of a cause other than 0. -/
theorem stepStatus_eq_status_iff (hh : s.halt = false) (hc : c ≠ .none) :
    stepStatus s = some c.status ↔ StepFaults s c := by
  refine ⟨fun hst => ?_, fun h => stepStatus_of_cycle (cycle_of_stepFaults hh h)⟩
  obtain ⟨t, st, hcy⟩ := cycle_answers s
  obtain rfl : st = c.status := Option.some.inj ((stepStatus_of_cycle hcy).symm.trans hst)
  rcases cycle_normal_or_faults hh hcy with ⟨-, hok | hunk⟩ | ⟨d, hd, -, hcode⟩
  · exact absurd (Cause.status_injective (a₂ := .none) hok) hc
  · exact absurd hunk c.status_ne_unknownOpcode
  · rwa [Cause.status_injective hcode]

theorem step_of_fault_status (hh : s.halt = false) (hc : c ≠ .none) (h : stepStatus s = some c.status) :
    step s = .next (s.raise c) :=
  step_of_cycle (cycle_of_stepFaults hh ((stepStatus_eq_status_iff hh hc).1 h))

theorem stepFaults_addressOutOfRange_iff : StepFaults s .addressOutOfRange ↔
    4096 ≤ s.pc.toNat + 1 ∨ ∃ i, instrAtPc s = some i ∧ addressFault i s := by
  simp [StepFaults, Raises, fetchWord_eq_none_iff]

theorem stepFaults_stackOverflow_iff : StepFaults s .stackOverflow ↔
    (∃ nnn, instrAtPc s = some (.callNnn nnn)) ∧ s.sp.val = 16 := by
  simp [StepFaults, Raises]

theorem stepFaults_stackUnderflow_iff : StepFaults s .stackUnderflow ↔ instrAtPc s = some .ret ∧ s.sp.val = 0 := by
  simp [StepFaults, Raises]

/-! ### The obligations -/

/-- Settles O12: a step that leaves the engine halted has faulted, and a fault is a raise. -/
theorem fatalFaultsWriteOnlyHaltAndCause : Obligations.FatalFaultsWriteOnlyHaltAndCause := by
  intro s t hh h ht
  obtain ⟨st, hcy⟩ := step_eq_next_iff.1 h
  rcases cycle_normal_or_faults hh hcy with ⟨hrun, -⟩ | ⟨c, hc, rfl, rfl⟩
  · simp [hrun] at ht
  · exact ⟨rfl, hc.ne_none, stepStatus_of_cycle hcy⟩

/-- Settles O13: the fetch and the instructions of the table of R252, by what a fatal status means. -/
theorem addressOutOfRangeExactlyWhereListed : Obligations.AddressOutOfRangeExactlyWhereListed :=
  fun _ hh => (stepStatus_eq_status_iff (c := .addressOutOfRange) hh (by decide)).trans stepFaults_addressOutOfRange_iff

/-- Settles O14: only 2NNN and 00EE raise the stack causes. -/
theorem stackFaultsExactlyOnFullAndEmpty : Obligations.StackFaultsExactlyOnFullAndEmpty := by
  refine fun s hh => ⟨?_, ?_, ?_, ?_⟩
  · exact (stepStatus_eq_status_iff (c := .stackOverflow) hh (by decide)).trans stepFaults_stackOverflow_iff
  · exact (stepStatus_eq_status_iff (c := .stackUnderflow) hh (by decide)).trans stepFaults_stackUnderflow_iff
  · exact step_of_fault_status (c := .stackOverflow) hh (by decide)
  · exact step_of_fault_status (c := .stackUnderflow) hh (by decide)

end Sys2Proof.Machine
end

section
/-! PROOFS. Reset, load and the host's moves (spec/70_reset_and_hazards.md R290 to R297), and the stable situations (b)
and (c) of R307. -/

namespace Sys2Proof.Machine

section
variable {s t : State} {h h' : Session} {bytes : List Byte} {r : Reply} {i : Instr}

/-! ### The load (R292, R293) -/

theorem loadProgram_of_fits (hlen : bytes.length ≤ 0xE00) :
    s.loadProgram bytes = (s.setMem (s.mem.writeBytes 0x200 bytes), .ok) := if_neg (Nat.not_lt.2 hlen)

theorem loadProgram_of_tooLarge (hlen : 0xE00 < bytes.length) : s.loadProgram bytes = (s, .programTooLarge) :=
  if_pos hlen

/-- Memory after a load: the image from 0x200 up lies inside it. -/
theorem read_loaded (m : Memory) (hlen : bytes.length ≤ 0xE00) (a : Nat) : (m.writeBytes 0x200 bytes).read a =
    if 0x200 ≤ a ∧ a < 0x200 + bytes.length then bytes.getD (a - 0x200) 0x00#8 else m.read a :=
  Memory.read_writeBytes bytes m 0x200 (by omega) a

theorem read_loaded_image (m : Memory) (hlen : bytes.length ≤ 0xE00) {k : Nat} (hk : k < bytes.length) :
    (m.writeBytes 0x200 bytes).read (0x200 + k) = bytes[k] := by
  rw [read_loaded m hlen, if_pos (by omega), Nat.add_sub_cancel_left, List.getD_eq_getElem _ _ hk]

theorem read_loaded_outside (m : Memory) (hlen : bytes.length ≤ 0xE00) {a : Nat}
    (ha : a < 0x200 ∨ 0x200 + bytes.length ≤ a) : (m.writeBytes 0x200 bytes).read a = m.read a := by
  rw [read_loaded m hlen, if_neg (by omega)]

theorem session_load_of_not_fresh (hp : h.phase ≠ .fresh) : h.load bytes = .refused .loadNotAdmitted := by
  unfold Session.load
  split
  · next hfresh => exact absurd hfresh hp
  · rfl
  · rfl

theorem session_load_of_fits (hp : h.phase = .fresh) (hlen : bytes.length ≤ 0xE00) : h.load bytes =
    .next (⟨h.machine.setMem (h.machine.mem.writeBytes 0x200 bytes), .loaded⟩, .status .ok) := by
  simp only [Session.load, hp, loadProgram_of_fits hlen]

theorem session_load_of_tooLarge (hp : h.phase = .fresh) (hlen : 0xE00 < bytes.length) :
    h.load bytes = .next (h, .status .programTooLarge) := by
  simp only [Session.load, hp, loadProgram_of_tooLarge hlen]

/-- The two ways a load answers: the image copied, or nothing changed. -/
theorem session_load_cases (hl : h.load bytes = .next (h', r)) :
    h' = ⟨h.machine.setMem (h.machine.mem.writeBytes 0x200 bytes), .loaded⟩ ∨ h' = h := by
  by_cases hp : h.phase = .fresh
  · rcases Nat.lt_or_ge 0xE00 bytes.length with hlen | hlen
    · rw [session_load_of_tooLarge hp hlen] at hl; cases hl; exact .inr rfl
    · rw [session_load_of_fits hp hlen] at hl; cases hl; exact .inl rfl
  · rw [session_load_of_not_fresh hp] at hl; cases hl

/-! ### The step as a move (R297) -/

theorem session_step_of_cycle {st : Status} (hc : cycle h.machine = .next (t, st)) :
    h.step = .next (⟨t, .stepped⟩, .status st) := by
  simp only [Session.step, hc]

/-- The move answers as the step of the engine does. -/
theorem session_step_cases (hm : h.step = .next (h', r)) :
    ∃ t, step h.machine = .next t ∧ h' = ⟨t, .stepped⟩ := by
  obtain ⟨t, st, hc⟩ := cycle_answers h.machine
  rw [session_step_of_cycle hc] at hm; cases hm
  exact ⟨t, step_of_cycle hc, rfl⟩

/-! ### The invariant -/

theorem setMem_writeBytes_keeps_inv (a : Nat) (bs : List Byte) (hs : s.Inv) :
    (s.setMem (s.mem.writeBytes a bs)).Inv := by
  obtain ⟨hmem, hrest⟩ := hs
  exact ⟨Memory.wf_writeBytes bs hmem a, hrest⟩

/-- The invariant does not speak of the random input, which alone a reset keeps beside `FONT`. -/
theorem resetMove_inv (s : State) : s.resetMove.Inv := resetWith_inv s.mem.font

/-! ### An instruction that leaves the engine as it is -/

theorem cycle_of_exec_unchanged (hh : s.halt = false) (hi : instrAtPc s = some i) (he : exec i s = .next s) :
    cycle s = .next (s.tick, .ok) := by
  obtain ⟨w, hf, hd⟩ := Option.bind_eq_some_iff.1 hi
  rw [cycle_of_exec hh hf hd he, finishStep_of_normal hh]

theorem exec_jpNnn_self {nnn : Addr} (hself : addrOperand nnn = s.pc) : exec (.jpNnn nnn) s = .next s := by
  show Host.Outcome.next (s.setPc (addrOperand nnn)) = .next s
  rw [hself]; rfl

end

/-! ### The obligations -/

/-- Settles O18, move by move: a load writes one block of memory, a step keeps the invariant, and the other moves but
reset write nothing that it speaks of. -/
theorem hostMovesKeepTheInvariant : Obligations.HostMovesKeepTheInvariant := by
  intro m h h' r hinv hm
  cases m with
  | reset => cases hm; exact resetMove_inv h.machine
  | loadProgram bytes =>
    rcases session_load_cases hm with rfl | rfl
    · exact setMem_writeBytes_keeps_inv 0x200 bytes hinv
    · exact hinv
  | step =>
    obtain ⟨t, hstep, rfl⟩ := session_step_cases hm
    exact step_keeps_inv hstep hinv
  | setKeys | clearDirty | readFramebuffer | readDirty | readSound => cases hm; exact hinv

/-- Settles O57, by the law of a read after a block of writes; above 0x200 the reset content is 0. -/
theorem loadProgramCopiesTheImageOrFails : Obligations.LoadProgramCopiesTheImageOrFails := by
  intro s bytes
  refine ⟨fun hlen => ?_, loadProgram_of_tooLarge, fun hlen font a hlo _ => ?_⟩
  · exact ⟨_, loadProgram_of_fits hlen, rfl, Memory.font_writeBytes bytes s.mem 0x200,
      fun _ hk => read_loaded_image s.mem hlen hk, fun _ ha => read_loaded_outside s.mem hlen ha⟩
  · rw [loadProgram_of_fits hlen]
    exact (read_loaded_outside _ hlen (.inr hlo)).trans (Memory.read_empty_of_not_font font a (by omega))

/-- Settles O58, by the phase of the session and the length of the image. -/
theorem loadIsAdmittedOnceAfterReset : Obligations.LoadIsAdmittedOnceAfterReset := by
  intro h h' bytes r
  refine ⟨session_load_of_not_fresh, fun hp hlen => ⟨_, session_load_of_fits hp hlen, rfl⟩,
    session_load_of_tooLarge, fun hm => ?_, ⟨_, rfl, rfl, rfl⟩⟩
  obtain ⟨t, -, rfl⟩ := session_step_cases hm
  rfl

/-- Settles O59: every step answers, and the other moves are what their definitions write. -/
theorem hostMovesTouchOnlyTheirOwn : Obligations.HostMovesTouchOnlyTheirOwn := by
  intro h k
  obtain ⟨t, st, hc⟩ := cycle_answers h.machine
  exact ⟨rfl, rfl, rfl, rfl, rfl, t, st, step_of_cycle hc, stepStatus_of_cycle hc, session_step_of_cycle hc⟩

/-- Settles O60: in both situations the execute phase leaves the engine as it is, so the step is the tick alone. -/
theorem selfJumpAndKeyWaitAreStable : Obligations.SelfJumpAndKeyWaitAreStable := by
  intro s hh hstable
  have hc : cycle s = .next (s.tick, .ok) := by
    rcases hstable with ⟨nnn, hi, hself⟩ | ⟨⟨x, hi⟩, hkeys⟩
    · exact cycle_of_exec_unchanged hh hi (exec_jpNnn_self hself)
    · exact cycle_of_exec_unchanged hh hi (exec_ldVxK_waiting s x hkeys)
  exact ⟨step_of_cycle hc, stepStatus_of_cycle hc⟩

end Sys2Proof.Machine
end

section
/-! PROOFS. The words written out in the rules' examples and in the test vectors (spec/95_test_vectors.md). -/

namespace Sys2Proof

/-- Settles O5: a word decodes to the instruction that encodes to it, and the two unknown words are in the second and the
third row of the table of R98. -/
theorem wordsOfTheExamplesDecode : Obligations.WordsOfTheExamplesDecode := by
  have unknown8128 : decode 0x8128#16 = none :=
    (unknownWordsAreExactlyTheListedOnes _).2 (.inr (.inl (by decide)))
  have unknownE19F : decode 0xE19F#16 = none :=
    (unknownWordsAreExactlyTheListedOnes _).2 (.inr (.inr (.inl (by decide))))
  simp only [Obligations.WordsOfTheExamplesDecode, decode_eq_some_iff, unknown8128, unknownE19F]
  decide

end Sys2Proof
end
